-- ==== Sys2Proof/Word.lean ====
section
/-! DEFINITION. The byte and the line level: the only words of this hardware
(00_scope.md R9, R11; 20_memory.md R62: every protocol field is one byte). -/

namespace Sys2Proof

/-- A byte, unsigned, 0..255 (00_scope.md R9). -/
abbrev Byte := BitVec 8

/-- The level of a line: 0 is low, 1 is high (00_scope.md R11). -/
inductive Level where
  | low
  | high
  deriving DecidableEq, Repr, Inhabited

end Sys2Proof
end

