-- ==== Sys2Proof/Config.lean ====
section
/-! DEFINITION. What an implementation fixes: the protocol constants, the configuration record's type with the instance
that the machine is reset with, and the free values (answers of the environment that nothing in the spec fixes). -/

namespace Sys2Proof

/-- A ready-wait bound as the host gives it: a duration in microseconds, or no bound at all, which the argument check
refuses (43_command_engine.md R183: "a finite duration >= 0"; log 21). -/
inductive Bound where
  | micros (us : Nat)
  | unbounded
  deriving DecidableEq, Repr

namespace Config

/-- START_MARKER (00_scope.md R7). -/
def startMarker : Byte := 0xE0

/-- END_MARKER (00_scope.md R7). -/
def endMarker : Byte := 0xEE

/-- REPLY_FLAG, the mask of the opcode byte's bit 7 (00_scope.md R7, 30_encoding.md R81). -/
def replyFlag : Byte := 0x80

/-- The mask of the opcode byte's CMD field, bits 6..0 (30_encoding.md R81). -/
def cmdMask : Byte := 0x7F

/-- FILL_BYTE (00_scope.md R7): the padding of a request and the byte sent while receiving (R12). -/
def fillByte : Byte := 0xFF

/-- PARAM_CEILING (00_scope.md R7). -/
def paramCeiling : Nat := 7

/-- FREE VALUE. Does another holder have the bus at this sample (20_memory.md R70; log 3, log 8)? -/
opaque otherHolder : Nat → Bool

/-- FREE VALUE. The level of READY at this sample (93_implementation_defined.md U10; log 3). -/
opaque readyLevel : Nat → Level

/-- FREE VALUE. The level of ABORT at this sample (10_state.md R38; log 3). -/
opaque abortLevel : Nat → Level

/-- FREE VALUE. The byte the device returns while the block sends (93_implementation_defined.md U5; log 3). -/
opaque sendAnswer : Nat → Byte

/-- FREE VALUE. The byte the device returns while the block receives (93_implementation_defined.md U4; log 3). -/
opaque receiveAnswer : Nat → Byte

/-- FREE VALUE. The value of the platform's monotonic timer (60_exceptions.md R234; log 7). -/
opaque timerNow : Nat → Nat

/-- FREE VALUE. How many timer samples of one wait answer false before one answers true, for a timer started at the
given value under the given bound. A natural number, so that a sample that is true stays true within
the wait and some sample is true (20_memory.md R77; 93_implementation_defined.md U11; log 3, log 7). -/
opaque timerPolls : (tick timer : Nat) → Bound → Nat

end Config

/-- The direction of the boot pin's pull after reset_sequence: BOOT_RELEASE_MODE (00_scope.md R7). -/
inductive Pull where
  | up
  | down
  deriving DecidableEq, Repr

/-- The configuration record (10_state.md R22-R24): the block's only control registers, written at construction and
never after. The first seven fields are LinkConfig; the identifiers are opaque to the block. -/
structure Cfg where
  /-- bus index (R23) -/
  bus : Nat
  /-- clock rate, Hz (R23) -/
  clock : Nat
  /-- bus mode (R23) -/
  mode : Nat
  /-- chip-select line (R23) -/
  cs : Nat
  /-- ready/ack line (R23) -/
  ready : Nat
  /-- reset line (R23) -/
  reset : Nat
  /-- boot-mode line (R23) -/
  boot : Nat
  /-- ERR_CMD, the error sentinel: any byte (00_scope.md R7) -/
  errCmd : Byte
  /-- LIST_CAP (00_scope.md R7) -/
  listCap : Nat
  /-- PROBE_LIMIT (00_scope.md R7) -/
  probeLimit : Nat
  /-- SSID_MAX_LEN (00_scope.md R7) -/
  ssidMax : Nat
  /-- PASS_MAX_LEN (00_scope.md R7) -/
  passMax : Nat
  /-- MAC_LEN (00_scope.md R7) -/
  macLen : Nat
  /-- T_RESET_LOW_US (00_scope.md R7) -/
  tResetLowUs : Nat
  /-- T_BOOT_US (00_scope.md R7) -/
  tBootUs : Nat
  /-- T_SETTLE_US (00_scope.md R7) -/
  tSettleUs : Nat
  /-- DEFAULT_READY_TIMEOUT in microseconds (00_scope.md R7) -/
  defaultReadyTimeout : Nat
  /-- BOOT_RELEASE_MODE (00_scope.md R7) -/
  bootReleaseMode : Pull
  /-- RX_PAD (00_scope.md R7) -/
  rxPad : Bool
  deriving DecidableEq, Repr

/-- The configuration `State.reset` is constructed with: the instance of 95_test_vectors.md section 0, with line
identifiers of the model's own. DESIGN CHOICE, unsafe (log 4): every field is a construction argument, and no statement
rests on these values unless it says so. -/
def Cfg.vectors : Cfg where
  bus := 0
  clock := 0
  mode := 0
  cs := 0
  ready := 1
  reset := 2
  boot := 3
  errCmd := 0xEF
  listCap := 6
  probeLimit := 100
  ssidMax := 32
  passMax := 63
  macLen := 6
  tResetLowUs := 10000
  tBootUs := 750000
  tSettleUs := 1
  defaultReadyTimeout := 50000
  bootReleaseMode := .up
  rxPad := false

end Sys2Proof
end

