-- ==== Sys2Proof/Syntax.lean ====
section
/-! DEFINITION. The instructions, one constructor for each row of spec/opcode_table.json, and the words they are fetched
as: the host's requests, the echo byte of a response, the ABORT level (30_encoding.md R85, R86, R88, R95; log 1). -/

namespace Sys2Proof

/-- A host selector (30_encoding.md R95). -/
inductive Selector where
  /-- `Cmd(b)`, with any byte b: the host may name one that the block refuses (R92) -/
  | cmd (b : Byte)
  /-- `ResetSeq` -/
  | resetSeq
  deriving DecidableEq, Repr

/-- The arguments that stand after a selector in the host notation (30_encoding.md R96). Lengths and counts are natural
numbers, so that the argument check of 43_command_engine.md R183 has something to refuse. -/
inductive OpArgs where
  | none
  /-- `GETFWVERSION cap` -/
  | cap (n : Nat)
  /-- `SCANNETWORKS max` -/
  | maxRecords (n : Nat)
  /-- `CONNECT "ssid", "pass"` -/
  | credentials (ssid pass : List Byte)
  deriving DecidableEq, Repr

/-- A host request `REQ(sel, args)` (20_memory.md R61, 43_command_engine.md R180) with its `@t` suffix (30_encoding.md
R96): without one, the block takes `cfg.default_ready_timeout`. -/
structure Request where
  sel : Selector
  args : OpArgs
  timeout : Option Bound
  deriving DecidableEq, Repr

/-- What the block can take as its next instruction (log 1): a request of the host, the byte after a response's start
marker, or a sample of the ABORT level. -/
inductive Code where
  | request (r : Request)
  | echo (b : Byte)
  | abort (v : Level)
  deriving DecidableEq, Repr

/-- The instructions: spec/opcode_table.json, row by row. -/
inductive Instr where
  /-- GETFWVERSION (43_command_engine.md R200) -/
  | getfwversion (cap : Nat) (timeout : Option Bound)
  /-- GETCONNSTATUS (R201) -/
  | getconnstatus (timeout : Option Bound)
  /-- GETMACADDR (R202) -/
  | getmacaddr (timeout : Option Bound)
  /-- STARTSCAN (R203) -/
  | startscan (timeout : Option Bound)
  /-- SCANNETWORKS (R204) -/
  | scannetworks (maxRecords : Nat) (timeout : Option Bound)
  /-- CONNECT (R205) -/
  | connect (ssid pass : List Byte) (timeout : Option Bound)
  /-- DISCONNECT (R206) -/
  | disconnect (timeout : Option Bound)
  /-- GETFWVERSION.reply: echo byte 0xB7 (41_frame_codec.md R139) -/
  | getfwversionReply
  /-- GETCONNSTATUS.reply: echo byte 0xA0 -/
  | getconnstatusReply
  /-- GETMACADDR.reply: echo byte 0xA2 -/
  | getmacaddrReply
  /-- STARTSCAN.reply: echo byte 0xB6 -/
  | startscanReply
  /-- SCANNETWORKS.reply: echo byte 0xA7 -/
  | scannetworksReply
  /-- CONNECT.reply: echo byte 0x91 -/
  | connectReply
  /-- DISCONNECT.reply: echo byte 0xB0 -/
  | disconnectReply
  /-- ERR_CMD.reply: the error sentinel, `cfg.err_cmd` (41_frame_codec.md R138) -/
  | errCmdReply
  /-- RESETSEQ (43_command_engine.md R207) -/
  | resetseq
  /-- ABORT: the level input reads 1 (43_command_engine.md R208) -/
  | abort
  deriving DecidableEq, Repr

end Sys2Proof
end

