-- ==== Sys2Proof/WellFormed.lean ====
section
/-! DEFINITION. The ranges of an instruction's operands that no configuration changes (10_state.md R31,
30_encoding.md R96). An ill-formed instruction still runs: its call ends Err(ArgumentOutOfRange)
(43_command_engine.md R182, R183). -/

namespace Sys2Proof

/-- A bound, if given, is a finite duration (43_command_engine.md R183). -/
def boundFinite : Option Bound → Bool
  | none => true
  | some (.micros _) => true
  | some .unbounded => false

/-- A value that is one byte on the host's side: 0..255 (10_state.md R31). -/
def fitsByte (n : Nat) : Bool := decide (n ≤ 255)

/-- The operand ranges of 10_state.md R31: cap and max_records 0..255, ssid and pass 0..255 bytes, a finite bound. -/
def Instr.wellFormed : Instr → Bool
  | .getfwversion cap t => fitsByte cap && boundFinite t
  | .getconnstatus t => boundFinite t
  | .getmacaddr t => boundFinite t
  | .startscan t => boundFinite t
  | .scannetworks maxRecords t => fitsByte maxRecords && boundFinite t
  | .connect ssid pass t => fitsByte ssid.length && fitsByte pass.length && boundFinite t
  | .disconnect t => boundFinite t
  | .getfwversionReply => true
  | .getconnstatusReply => true
  | .getmacaddrReply => true
  | .startscanReply => true
  | .scannetworksReply => true
  | .connectReply => true
  | .disconnectReply => true
  | .errCmdReply => true
  | .resetseq => true
  | .abort => true

end Sys2Proof
end

