-- ==== Sys2Proof/Decode.lean ====
section
/-! DEFINITION. The decoder from what the block fetches to an instruction, total and rejecting by name, and after it the
encoder, both from the tables of 30_encoding.md (R81, R85, R86, R88, R95, R96). The byte-level coding of frames is
Machine/Codec.lean. -/

namespace Sys2Proof

/-- The opcode byte of a request: bit 7 clear (30_encoding.md R81). -/
def requestOp (b : Byte) : Byte := b &&& Config.cmdMask

/-- The echo byte of a response: `(op & 0x7F) | 0x80` (30_encoding.md R81, 41_frame_codec.md R139). -/
def replyOp (b : Byte) : Byte := (b &&& Config.cmdMask) ||| Config.replyFlag

/-- The request opcodes in scope (30_encoding.md R85), in the table's order. -/
def catalogue : List Byte := [0x37, 0x20, 0x22, 0x36, 0x27, 0x11, 0x30]

/-- Why the decoder reads no instruction. None of these stops the machine: 43_command_engine.md R182 and
30_encoding.md R93 give each its effect (`unlisted` of Machine/Fetch.lean). -/
inductive Reject where
  /-- the selector's byte is not one of 30_encoding.md R85 (R92) -/
  | unknownSelector (b : Byte)
  /-- the arguments are not the ones 30_encoding.md R96 gives the selector -/
  | argumentShape (b : Byte)
  /-- the echo byte is neither ERR_CMD nor one of 30_encoding.md R86 (R93) -/
  | unknownEcho (b : Byte)
  /-- the ABORT level reads 0: no cancellation (43_command_engine.md R197) -/
  | abortNotAsserted
  deriving DecidableEq, Repr

/-- A host request, by its selector and the arguments of 30_encoding.md R96. RESETSEQ has no operands, and its accept
checks none (43_command_engine.md R180; log 18). -/
def decodeRequest (r : Request) : Except Reject Instr :=
  match r.sel with
  | .resetSeq => .ok .resetseq
  | .cmd b =>
    if b = 0x37 then
      match r.args with
      | .cap n => .ok (.getfwversion n r.timeout)
      | _ => .error (.argumentShape b)
    else if b = 0x20 then
      match r.args with
      | .none => .ok (.getconnstatus r.timeout)
      | _ => .error (.argumentShape b)
    else if b = 0x22 then
      match r.args with
      | .none => .ok (.getmacaddr r.timeout)
      | _ => .error (.argumentShape b)
    else if b = 0x36 then
      match r.args with
      | .none => .ok (.startscan r.timeout)
      | _ => .error (.argumentShape b)
    else if b = 0x27 then
      match r.args with
      | .maxRecords n => .ok (.scannetworks n r.timeout)
      | _ => .error (.argumentShape b)
    else if b = 0x11 then
      match r.args with
      | .credentials ssid pass => .ok (.connect ssid pass r.timeout)
      | _ => .error (.argumentShape b)
    else if b = 0x30 then
      match r.args with
      | .none => .ok (.disconnect r.timeout)
      | _ => .error (.argumentShape b)
    else .error (.unknownSelector b)

/-- The byte after a response's start marker: the error sentinel first, then the echoes (30_encoding.md R86, R88,
R93). -/
def decodeEcho (errCmd b : Byte) : Except Reject Instr :=
  if b = errCmd then .ok .errCmdReply
  else if b = 0xB7 then .ok .getfwversionReply
  else if b = 0xA0 then .ok .getconnstatusReply
  else if b = 0xA2 then .ok .getmacaddrReply
  else if b = 0xB6 then .ok .startscanReply
  else if b = 0xA7 then .ok .scannetworksReply
  else if b = 0x91 then .ok .connectReply
  else if b = 0xB0 then .ok .disconnectReply
  else .error (.unknownEcho b)

/-- The decoder, under the configuration's ERR_CMD. -/
def decode (errCmd : Byte) : Code → Except Reject Instr
  | .request r => decodeRequest r
  | .echo b => decodeEcho errCmd b
  | .abort .high => .ok .abort
  | .abort .low => .error .abortNotAsserted

/-- The encoder: the request, echo byte or level that stands for an instruction (30_encoding.md R85, R86, R88, R95,
R96), under the configuration's ERR_CMD. -/
def encode (errCmd : Byte) : Instr → Code
  | .getfwversion cap t => .request ⟨.cmd 0x37, .cap cap, t⟩
  | .getconnstatus t => .request ⟨.cmd 0x20, .none, t⟩
  | .getmacaddr t => .request ⟨.cmd 0x22, .none, t⟩
  | .startscan t => .request ⟨.cmd 0x36, .none, t⟩
  | .scannetworks maxRecords t => .request ⟨.cmd 0x27, .maxRecords maxRecords, t⟩
  | .connect ssid pass t => .request ⟨.cmd 0x11, .credentials ssid pass, t⟩
  | .disconnect t => .request ⟨.cmd 0x30, .none, t⟩
  | .getfwversionReply => .echo 0xB7
  | .getconnstatusReply => .echo 0xA0
  | .getmacaddrReply => .echo 0xA2
  | .startscanReply => .echo 0xB6
  | .scannetworksReply => .echo 0xA7
  | .connectReply => .echo 0x91
  | .disconnectReply => .echo 0xB0
  | .errCmdReply => .echo errCmd
  | .resetseq => .request ⟨.resetSeq, .none, none⟩
  | .abort => .abort .high

/-- The arguments of a table word: every operand of the row at zero, none of them longer than nothing. -/
def zeroArgs (b : Byte) : OpArgs :=
  if b = 0x37 then .cap 0
  else if b = 0x27 then .maxRecords 0
  else if b = 0x11 then .credentials [] []
  else .none

/-- What a table word stands for: with the reply flag clear, the host selector `Cmd(b)` with operands of zero; with it
set, the echo byte b (30_encoding.md R81, R85, R86). -/
def tableCode (w : Nat) : Code :=
  let b := BitVec.ofNat 8 w
  if b &&& Config.replyFlag = 0 then .request ⟨.cmd b, zeroArgs b, none⟩ else .echo b

/-- The instruction the decoder reads from a word of spec/opcode_table.json. The rows are one byte wide; ERR_CMD is at
the table's own instance, 0xEF (log 1, log 4). -/
def decodeTableWord (nbits w : Nat) : Option Instr :=
  if nbits = 8 then
    match decode Cfg.vectors.errCmd (tableCode w) with
    | .ok i => some i
    | .error _ => none
  else none

end Sys2Proof
end

