-- ==== Sys2Proof/Machine/State.lean ====
section
/-! DEFINITION. The machine's state as plain data: the configuration record, the engine's registers, the interface
lines, the trace, and the environment's answers (10_state.md R20-R44); the reasons a step can stop; block reset
(70_reset_and_hazards.md R250). -/

namespace Sys2Proof.Machine

/-- The Command Engine state register's values (10_state.md R30). -/
inductive Fsm where
  | idle
  | acquireBus
  | awaitReadyTx
  | selectTx
  | sendFrame
  | deselectTx
  | awaitReadyRx
  | selectRx
  | receiveFrame
  | deselectRx
  | releaseBus
  | done
  | failed
  | resetSeq
  deriving DecidableEq, Repr

/-- The error kinds (60_exceptions.md R220). -/
inductive ErrorKind where
  | argumentOutOfRange
  | handshakeTimeout
  | framingError
  | deviceErrorReply
  | unexpectedCommandEcho
  | paramCountMismatch
  | missingTerminator
  | bufferTooSmall
  | shortValue
  | cancelled
  deriving DecidableEq, Repr

/-- A GPIO line by its role (10_state.md R37, R38); its identifier is a field of `cfg` (R23). -/
inductive Line where
  | cs
  | ready
  | reset
  | boot
  deriving DecidableEq, Repr

/-- The mode `gpio_init` gives a line (00_scope.md R11). -/
inductive PinMode where
  | out
  | input
  | inPull (direction : Pull)
  deriving DecidableEq, Repr

/-- The RESET line as the block last drove it (10_state.md R37). -/
inductive ResetLevel where
  | undriven
  | low
  | high
  deriving DecidableEq, Repr

/-- The BOOT line as the block last drove it (10_state.md R37). -/
inductive BootMode where
  | undriven
  | outHigh
  | inPull
  deriving DecidableEq, Repr

/-- The value of a successful call (10_state.md R40). -/
inductive Value where
  /-- RESETSEQ's `Ok(())` (43_command_engine.md R195) -/
  | unit
  /-- a version string or a MAC address, in wire order -/
  | bytes (p : List Byte)
  /-- a raw status byte -/
  | status (b : Byte)
  /-- a scan: the records, their count, the truncation flag -/
  | scan (records : List (List Byte)) (count : Nat) (truncated : Bool)
  deriving DecidableEq, Repr

/-- What a call delivers (10_state.md R40): an `Err` carries its kind and nothing else (60_exceptions.md R221). -/
inductive Result where
  | ok (v : Value)
  | err (e : ErrorKind)
  deriving DecidableEq, Repr

/-- An event of the block's trace (20_memory.md R61). -/
inductive Event where
  /-- `REQ(op, args)` -/
  | req (r : Request)
  /-- `RESP(result)` -/
  | resp (r : Result)
  /-- `ACQ` -/
  | acq
  /-- `REL` -/
  | rel
  /-- `SET(l)` -/
  | set (l : Line)
  /-- `CLR(l)` -/
  | clr (l : Line)
  /-- `INIT(l, m)` -/
  | init (l : Line) (m : PinMode)
  /-- `READ(l) = v` -/
  | read (l : Line) (v : Level)
  /-- `X(o) = i` -/
  | x (o i : Byte)
  /-- `DLY(us)` -/
  | dly (us : Nat)
  /-- `TSTART` -/
  | tstart
  /-- `TEXP = b` -/
  | texp (expired : Bool)
  /-- `ABT = b` -/
  | abt (v : Level)
  deriving DecidableEq, Repr

/-- `OBS(from, to, st.err)`, the observability hook of a state change (43_command_engine.md R198; log 10). -/
structure Obs where
  source : Fsm
  target : Fsm
  err : Option ErrorKind
  deriving DecidableEq, Repr

/-- The latched arguments of a call (10_state.md R31). -/
structure Args where
  ssid : List Byte
  pass : List Byte
  cap : Nat
  maxRecords : Nat
  timeout : Bound
  deriving DecidableEq, Repr

/-- The environment's answers, the MODEL's own field (log 3): one queue a kind of sample, oldest first. Where a queue is
empty, the answer is the free value of Config at `tick`, and `tick` advances. -/
structure Env where
  /-- does another holder have the bus (20_memory.md R70) -/
  bus : List Bool
  /-- READ(ready) (40_handshake.md R114) -/
  ready : List Level
  /-- the ABORT samples (43_command_engine.md R197) -/
  abort : List Level
  /-- for each wait that samples its timer, the number of samples that answer false (20_memory.md R77) -/
  polls : List Nat
  /-- bytes the device returns while the block sends (00_scope.md R12) -/
  tx : List Byte
  /-- bytes the device returns while the block receives (10_state.md R39) -/
  rx : List Byte
  /-- the index of the next free answer -/
  tick : Nat
  /-- the index of the next timer value, which is always a free one (log 7) -/
  timers : Nat
  deriving DecidableEq, Repr

/-- What Decode expects (41_frame_codec.md R136). -/
inductive DecodeMode where
  | single (cap : Nat) (exact : Option Nat)
  | list (maxParams recCap : Nat)
  deriving DecidableEq, Repr

/-- The state of the machine: 10_state.md, with the trace of 20_memory.md R61. -/
structure State where
  /-- the configuration record (10_state.md R22) -/
  cfg : Cfg
  /-- the Command Engine state register (R30) -/
  fsm : Fsm
  /-- the accepted operation (R31) -/
  op : Selector
  /-- its arguments (R31) -/
  args : Args
  /-- the bus is held (R26) -/
  busHeld : Bool
  /-- the chip-select line's output level, active low (R27) -/
  cs : Level
  /-- the RESET line (R37) -/
  resetLevel : ResetLevel
  /-- the BOOT line (R37) -/
  bootMode : BootMode
  /-- the error latch (R28) -/
  err : Option ErrorKind
  /-- the truncation flag (R29) -/
  truncated : Bool
  /-- the transmit frame register (R32) -/
  tx : List Byte
  /-- the index of the next byte to send (R32) -/
  txIdx : Nat
  /-- the start-marker probe counter (R33) -/
  probe : Nat
  /-- the count byte the device reported (R34) -/
  n : Byte
  /-- the clamped count (R34) -/
  m : Nat
  /-- the timer value taken at entry to a ready wait (R35) -/
  timer : Nat
  /-- the reset-sequence step register, 0..7 (R36) -/
  rs : Fin 8
  /-- the parameter slot file (R41) -/
  slots : List (List Byte)
  /-- implied by 41_frame_codec.md R137-R139: the start marker has been read, the next received byte is the echo
  (log 13) -/
  marker : Bool
  /-- implied by 41_frame_codec.md R148: the byte exchanges of the current receive phase (log 13) -/
  rxCount : Nat
  /-- the event history, oldest first (20_memory.md R61) -/
  trace : List Event
  /-- the OBS events, oldest first (43_command_engine.md R198; log 10) -/
  obs : List Obs
  /-- the model's own: the requests presented and not yet accepted, oldest first (43_command_engine.md R180; log 9) -/
  requests : List Request
  /-- the model's own: the environment's answers (log 3) -/
  env : Env
  deriving DecidableEq, Repr

/-- The reasons to stop with a fault: none. The block has no trap, and an error of 60_exceptions.md R220 is a result the
host receives (R240), so nothing raises a fault. -/
inductive Fault where
  deriving DecidableEq, Repr

/-- The reasons to refuse. -/
inductive Refusal where
  /-- raised by no arm of exec now: an instruction without a meaning yet would answer with it; safe -/
  | notModelled (mnemonic : String)
  /-- raised by `step` and `construct` for a configuration outside the ranges of 00_scope.md R7 and R8, for which no
  behaviour is defined (93_implementation_defined.md U14, 60_exceptions.md R240); safe (log 6) -/
  | configOutOfRange
  deriving DecidableEq, Repr

/-- An environment with no answer in its queues: every answer is a free value (log 3). -/
def Env.free : Env where
  bus := []
  ready := []
  abort := []
  polls := []
  tx := []
  rx := []
  tick := 0
  timers := 0

/-- Block reset, the construction of the block with a configuration (70_reset_and_hazards.md R250, 10_state.md R44).
The registers R44 calls unspecified hold the values of log 5 (DESIGN CHOICE). -/
def State.blockReset (cfg : Cfg) : State where
  cfg := cfg
  fsm := .idle
  op := .cmd 0x20
  args := ⟨[], [], 0, 0, .micros 0⟩
  busHeld := false
  cs := .high
  resetLevel := .undriven
  bootMode := .undriven
  err := none
  truncated := false
  tx := []
  txIdx := 0
  probe := 0
  n := 0
  m := 0
  timer := 0
  rs := 0
  slots := []
  marker := false
  rxCount := 0
  trace := [.init .cs .out, .set .cs, .init .ready .input]
  obs := []
  requests := []
  env := Env.free

/-- The machine right after block reset, with the configuration of log 4. -/
def State.reset : State := State.blockReset Cfg.vectors

end Sys2Proof.Machine
end

