-- ==== Sys2Proof/Machine/Ops.lean ====
section
/-! DEFINITION. The operations every rule is written over: the trace, the state register, the environment's answers, the
interface primitives of 00_scope.md R11 and R12, and the taking of an error with the return from it
(60_exceptions.md R225-R229). -/

namespace Sys2Proof.Machine

/-- What a primitive ends with (00_scope.md R13): the state, and the error it raised or `none` for a return. -/
abbrev Ended := State × Option ErrorKind

/-- Sequencing of primitives: what follows runs only after a return (00_scope.md R13). -/
def Ended.andThen (r : Ended) (f : State → Ended) : Ended :=
  match r.2 with
  | none => f r.1
  | some _ => r

/-! ### The trace and the state register -/

/-- One event happens (20_memory.md R61). -/
def State.emit (s : State) (e : Event) : State := { s with trace := s.trace ++ [e] }

/-- `fsm <- target` (00_scope.md R10), with its OBS event (43_command_engine.md R198). -/
def State.enter (s : State) (target : Fsm) : State :=
  { s with fsm := target, obs := s.obs ++ [⟨s.fsm, target, s.err⟩] }

/-! ### The environment's answers (20_memory.md R61: "Inputs are environment answers"; log 3) -/

/-- The next free value is another one. -/
def State.tickOn (s : State) : State := { s with env := { s.env with tick := s.env.tick + 1 } }

/-- The answer to "does another holder have the bus" (20_memory.md R70). -/
def State.takeBus (s : State) : Bool × State :=
  match s.env.bus with
  | [] => (Config.otherHolder s.env.tick, s.tickOn)
  | a :: rest => (a, { s with env := { s.env with bus := rest } })

/-- The answer of a READY sample (10_state.md R38). -/
def State.takeReady (s : State) : Level × State :=
  match s.env.ready with
  | [] => (Config.readyLevel s.env.tick, s.tickOn)
  | a :: rest => (a, { s with env := { s.env with ready := rest } })

/-- The answer of an ABORT sample (10_state.md R38). -/
def State.takeAbort (s : State) : Level × State :=
  match s.env.abort with
  | [] => (Config.abortLevel s.env.tick, s.tickOn)
  | a :: rest => (a, { s with env := { s.env with abort := rest } })

/-- How many timer samples of this wait answer false (20_memory.md R77; log 7). -/
def State.takePolls (s : State) : Nat × State :=
  match s.env.polls with
  | [] => (Config.timerPolls s.env.tick s.timer s.args.timeout, s.tickOn)
  | a :: rest => (a, { s with env := { s.env with polls := rest } })

/-- The byte the device returns while the block sends (93_implementation_defined.md U5). -/
def State.takeTx (s : State) : Byte × State :=
  match s.env.tx with
  | [] => (Config.sendAnswer s.env.tick, s.tickOn)
  | a :: rest => (a, { s with env := { s.env with tx := rest } })

/-- The byte the device returns while the block receives (93_implementation_defined.md U4). -/
def State.takeRx (s : State) : Byte × State :=
  match s.env.rx with
  | [] => (Config.receiveAnswer s.env.tick, s.tickOn)
  | a :: rest => (a, { s with env := { s.env with rx := rest } })

/-! ### The interface primitives (00_scope.md R11, R12) -/

/-- `LineSet(l)`: drive high. -/
def State.lineSet (s : State) (l : Line) : State := s.emit (.set l)

/-- `LineClear(l)`: drive low. -/
def State.lineClear (s : State) (l : Line) : State := s.emit (.clr l)

/-- `LineInit(l, m)`. -/
def State.lineInit (s : State) (l : Line) (m : PinMode) : State := s.emit (.init l m)

/-- `Delay(us)`: at least `us` microseconds pass (20_memory.md R77). -/
def State.delay (s : State) (us : Nat) : State := s.emit (.dly us)

/-- `LineRead(cfg.ready)`. -/
def State.readReady (s : State) : Level × State :=
  (s.takeReady.1, s.takeReady.2.emit (.read .ready s.takeReady.1))

/-- One sample of the ABORT level (43_command_engine.md R197). -/
def State.sampleAbort (s : State) : Level × State :=
  (s.takeAbort.1, s.takeAbort.2.emit (.abt s.takeAbort.1))

/-- `st.timer <- TimerStart()` (40_handshake.md R114). The timer's value is free (log 7). -/
def State.startTimer (s : State) : State :=
  { s with
    timer := Config.timerNow s.env.timers, env := { s.env with timers := s.env.timers + 1 },
    trace := s.trace ++ [.tstart] }

/-- `TxByte(b)`: `Xfer(b)`, the byte received is discarded (00_scope.md R12). -/
def State.txByte (s : State) (b : Byte) : State := s.takeTx.2.emit (.x b s.takeTx.1)

/-- `RxByte()`: `Xfer(FILL_BYTE)`, the byte received is kept (00_scope.md R12). -/
def State.rxByte (s : State) : Byte × State :=
  (s.takeRx.1, ({ s.takeRx.2 with rxCount := s.rxCount + 1 }).emit (.x Config.fillByte s.takeRx.1))

/-! ### Errors: the latch, taking one, the return (60_exceptions.md R225-R229) -/

/-- `latch E`: the first error of a call is kept (41_frame_codec.md R142, 60_exceptions.md R226). -/
def State.latch (s : State) (e : ErrorKind) : State :=
  match s.err with
  | none => { s with err := some e }
  | some _ => s

/-- Where the exit path of an error begins, by the state that raised it (60_exceptions.md R228, 43_command_engine.md
R181): nothing to undo in Idle, the bus to release in a wait, chip-select to release first while it is active. No rule
raises an error in SendFrame; its exit here is log 17's. -/
def errorExit : Fsm → Fsm
  | .awaitReadyTx => .releaseBus
  | .awaitReadyRx => .releaseBus
  | .receiveFrame => .deselectRx
  | .sendFrame => .deselectRx
  | _ => .failed

/-- TAKING AN ERROR (60_exceptions.md R225-R228): the kind is latched and the engine goes to the exit path's state. No
return address, mode or mask is saved (R227). -/
def State.takeError (s : State) (e : ErrorKind) : State := (s.latch e).enter (errorExit s.fsm)

/-- THE RETURN FROM AN ERROR (60_exceptions.md R229, 43_command_engine.md R194): Failed delivers `RESP(Err(st.err))` and
moves to Idle. Failed without an error does not occur; it delivers nothing (log 17). -/
def State.returnFromError (s : State) : State :=
  match s.err with
  | some e => (s.emit (.resp (.err e))).enter .idle
  | none => s.enter .idle

end Sys2Proof.Machine
end

