-- ==== Sys2Proof/Machine/Flags.lean ====
section
/-! DEFINITION. The flags of the engine and the conditions computed for them: bus_held (10_state.md R26), truncated
(R29, 42_demux.md R163), the choice of Done or Failed (43_command_engine.md R193), and the codes of the state register
and of the errors (10_state.md R30, 60_exceptions.md R220). -/

namespace Sys2Proof.Machine

/-- The code of an engine state (10_state.md R30). -/
def Fsm.code : Fsm → Nat
  | .idle => 0
  | .acquireBus => 1
  | .awaitReadyTx => 2
  | .selectTx => 3
  | .sendFrame => 4
  | .deselectTx => 5
  | .awaitReadyRx => 6
  | .selectRx => 7
  | .receiveFrame => 8
  | .deselectRx => 9
  | .releaseBus => 10
  | .done => 11
  | .failed => 12
  | .resetSeq => 13

/-- The code of an error kind; 0 stands for no error (60_exceptions.md R220). -/
def ErrorKind.code : ErrorKind → Nat
  | .argumentOutOfRange => 1
  | .handshakeTimeout => 2
  | .framingError => 3
  | .deviceErrorReply => 4
  | .unexpectedCommandEcho => 5
  | .paramCountMismatch => 6
  | .missingTerminator => 7
  | .bufferTooSmall => 8
  | .shortValue => 9
  | .cancelled => 10

/-- The code of the error latch (60_exceptions.md R220). -/
def errCode : Option ErrorKind → Nat
  | none => 0
  | some e => e.code

/-- The bus is held from the return of `Acquire()` to the call of `Release()`: whether it is, in each engine state
(10_state.md R26; 43_command_engine.md R184, R193). -/
def Fsm.holdsBus : Fsm → Bool
  | .awaitReadyTx | .selectTx | .sendFrame | .deselectTx | .awaitReadyRx | .selectRx | .receiveFrame | .deselectRx
  | .releaseBus => true
  | .idle | .acquireBus | .done | .failed | .resetSeq => false

/-- The chip-select level on entry to each engine state: active from the end of a select to the next deselect
(10_state.md R27, 40_handshake.md R116, R117; log 15). -/
def Fsm.csLevel : Fsm → Level
  | .sendFrame | .deselectTx | .receiveFrame | .deselectRx => .low
  | .idle | .acquireBus | .awaitReadyTx | .selectTx | .awaitReadyRx | .selectRx | .releaseBus | .done | .failed
  | .resetSeq => .high

/-- `st.truncated <- (st.n > st.m)` (42_demux.md R163). -/
def truncatedFlag (n : Byte) (m : Nat) : Bool := decide (m < n.toNat)

/-- Where ReleaseBus goes (43_command_engine.md R193). -/
def outcomeState : Option ErrorKind → Fsm
  | none => .done
  | some _ => .failed

/-- The state is at a suspension point, where ABORT is sampled before anything else (43_command_engine.md R196, R197):
a ready wait, or the hunt for the start marker. -/
def State.suspended (s : State) : Bool :=
  match s.fsm with
  | .awaitReadyTx => true
  | .awaitReadyRx => true
  | .receiveFrame => !s.marker
  | _ => false

/-- The next byte the block reads is the echo of a response (41_frame_codec.md R138, R139; log 13). -/
def State.atEcho (s : State) : Bool := decide (s.fsm = .receiveFrame) && s.marker

end Sys2Proof.Machine
end

