-- ==== Sys2Proof/Machine/Operands.lean ====
section
/-! DEFINITION. Operands: the ranges of the configuration (00_scope.md R7, R8), the argument check and the latching of
arguments (43_command_engine.md R180, R182, R183), the request parameters (30_encoding.md R99) and the capacities a
decode is given (41_frame_codec.md R141, 42_demux.md R161). -/

namespace Sys2Proof.Machine

/-- The ranges of the parameters (00_scope.md R7, R8). -/
def Cfg.inRange (c : Cfg) : Bool :=
  decide (1 ≤ c.listCap) && decide (c.listCap ≤ 255) && decide (100 ≤ c.probeLimit) && decide (c.ssidMax ≤ 255)
    && decide (c.passMax ≤ 255) && decide (1 ≤ c.macLen) && decide (c.macLen ≤ 255)
    && decide (10000 ≤ c.tResetLowUs) && decide (750000 ≤ c.tBootUs) && decide (1 ≤ c.tSettleUs)
    && decide (1 ≤ c.defaultReadyTimeout)

/-- Is the selector one of the seven `Cmd(b)` (43_command_engine.md R182)? -/
def known (b : Byte) : Bool := catalogue.contains b

/-- `opbyte(Cmd(b)) = b` (43_command_engine.md R187); ResetSeq has none. -/
def opByte : Selector → Option Byte
  | .cmd b => some b
  | .resetSeq => none

/-- The arguments as `st.args` holds them, with the default bound where the request gives none (10_state.md R31,
43_command_engine.md R180). A field the operation does not take is empty or 0. -/
def latchArgs (c : Cfg) (r : Request) : Args :=
  let t : Bound := r.timeout.getD (.micros c.defaultReadyTimeout)
  match r.args with
  | .none => ⟨[], [], 0, 0, t⟩
  | .cap n => ⟨[], [], n, 0, t⟩
  | .maxRecords n => ⟨[], [], 0, n, t⟩
  | .credentials ssid pass => ⟨ssid, pass, 0, 0, t⟩

/-- The last row but one of 43_command_engine.md R183, "all": the bound is a finite duration. -/
def timeoutOk : Bound → Bool
  | .micros _ => true
  | .unbounded => false

/-- The other rows of 43_command_engine.md R183, with the argument ranges of 10_state.md R31: the arguments are those of
30_encoding.md R96 for the selector (log 18), within their limits. -/
def operandsOk (c : Cfg) (b : Byte) (a : OpArgs) : Bool :=
  if b = 0x11 then
    match a with
    | .credentials ssid pass =>
      decide (ssid.length ≤ c.ssidMax) && decide (pass.length ≤ c.passMax)
        && fitsByte ssid.length && fitsByte pass.length
    | _ => false
  else if b = 0x37 then
    match a with
    | .cap n => fitsByte n
    | _ => false
  else if b = 0x27 then
    match a with
    | .maxRecords n => fitsByte n
    | _ => false
  else
    match a with
    | .none => true
    | _ => false

/-- `ArgsOk` (43_command_engine.md R183). -/
def argsOk (c : Cfg) (b : Byte) (r : Request) : Bool :=
  operandsOk c b r.args && timeoutOk (latchArgs c r).timeout

/-- `Params(op, args)`: CONNECT sends the ssid and the passphrase, every other command nothing (30_encoding.md R99,
43_command_engine.md R187). -/
def params (b : Byte) (a : Args) : List (List Byte) := if b = 0x11 then [a.ssid, a.pass] else []

/-- `min(st.args.max_records, cfg.list_cap)` (42_demux.md R161). -/
def scanCap (c : Cfg) (a : Args) : Nat := min a.maxRecords c.listCap

/-- What ReceiveFrame asks Decode for (43_command_engine.md R191): the rows of 41_frame_codec.md R141, and 42_demux.md
R161 for SCANNETWORKS. -/
def decodeMode (c : Cfg) (b : Byte) (a : Args) : DecodeMode :=
  if b = 0x27 then .list (scanCap c a) c.ssidMax
  else if b = 0x37 then .single a.cap none
  else if b = 0x22 then .single c.macLen (some c.macLen)
  else .single 1 (some 1)

/-- How many slots the caller's buffer has (10_state.md R41). -/
def slotCount (c : Cfg) (sel : Selector) (a : Args) : Nat :=
  match sel with
  | .cmd b => if b = 0x27 then scanCap c a else 1
  | .resetSeq => 0

/-- The value a successful call delivers, from the decoded slots (43_command_engine.md R200-R206, 41_frame_codec.md R144,
42_demux.md R165). A status slot holds exactly one byte after a decode that returned. -/
def callValue (sel : Selector) (slots : List (List Byte)) (m : Nat) (truncated : Bool) : Value :=
  match sel with
  | .resetSeq => .unit
  | .cmd b =>
    if b = 0x27 then .scan (slots.take m) m truncated
    else if b = 0x37 || b = 0x22 then .bytes (slots.headD [])
    else
      match slots with
      | [s] :: _ => .status s
      | _ => .bytes (slots.headD [])

end Sys2Proof.Machine
end

