-- ==== Sys2Proof/Machine/Handshake.lean ====
section
/-! DEFINITION. The Link Handshake: reset_sequence, wait_ready, select, deselect (40_handshake.md R110-R118). -/

namespace Sys2Proof.Machine

/-- `st.rs <- k`: step k of reset_sequence begins (40_handshake.md R111, 10_state.md R36). -/
def State.resetStep (s : State) (k : Fin 8) : State := { s with rs := k }

/-- reset_sequence, its seven steps in the source's order (40_handshake.md R111, R112). -/
def resetSequence (s : State) : State :=
  let s := { ((s.resetStep 1).lineInit .boot .out).lineSet .boot with bootMode := .outHigh }
  let s := { (s.resetStep 2).lineSet .cs with cs := .high }
  let s := { ((s.resetStep 3).lineInit .reset .out).lineClear .reset with resetLevel := .low }
  let s := (s.resetStep 4).delay s.cfg.tResetLowUs
  let s := { (s.resetStep 5).lineSet .reset with resetLevel := .high }
  let s := (s.resetStep 6).delay s.cfg.tBootUs
  { (s.resetStep 7).lineInit .boot (.inPull s.cfg.bootReleaseMode) with bootMode := .inPull }

/-- One pass of the ready wait up to its READY test (40_handshake.md R114): ABORT first, then READY; while READY reads 1
the pass goes on with its timer test `k`. -/
def poll (k : State → Ended) (s : State) : Ended :=
  if s.sampleAbort.1 = .high then (s.sampleAbort.2, some .cancelled)
  else if s.sampleAbort.2.readReady.1 = .low then (s.sampleAbort.2.readReady.2, none)
  else k s.sampleAbort.2.readReady.2

/-- The timer tests of a wait of which `j` more answer false, and the passes between them (40_handshake.md R114,
20_memory.md R77). -/
def timerTests : Nat → State → Ended
  | 0, s => (s.emit (.texp true), some .handshakeTimeout)
  | j + 1, s => poll (timerTests j) (s.emit (.texp false))

/-- wait_ready (40_handshake.md R114). The timer's answers are drawn when it is first tested. -/
def waitReady (s : State) : Ended :=
  poll (fun s => timerTests s.takePolls.1 s.takePolls.2) s.startTimer

/-- select (40_handshake.md R116). -/
def select (s : State) : State := { s.lineClear .cs with cs := .low }

/-- deselect, with its settling delay (40_handshake.md R117). -/
def deselect (s : State) : State := ({ s.lineSet .cs with cs := .high }).delay s.cfg.tSettleUs

end Sys2Proof.Machine
end

