-- ==== Sys2Proof/Machine/Codec.lean ====
section
/-! DEFINITION. The Frame Codec: Encode, the bytes of a decode, the shared steps of Decode and its Single mode
(41_frame_codec.md R130-R149). -/

namespace Sys2Proof.Machine

/-! ### Encode -/

/-- A parameter field: its length byte and its payload (30_encoding.md R83, R89). -/
def paramField (p : List Byte) : List Byte := BitVec.ofNat 8 p.length :: p

/-- The request frame without its filler (41_frame_codec.md R131 steps 1-5). With no parameters the parameter section is
empty (step 4). -/
def frameBody (op : Byte) (ps : List (List Byte)) : List Byte :=
  Config.startMarker :: requestOp op :: BitVec.ofNat 8 ps.length :: (ps.flatMap paramField ++ [Config.endMarker])

/-- How much filler a frame of this length takes (30_encoding.md R83, R84). -/
def padCount (len : Nat) : Nat := (4 - len % 4) % 4

/-- Step 6: filler to a multiple of 4. -/
def padFrame (f : List Byte) : List Byte := f ++ List.replicate (padCount f.length) Config.fillByte

/-- Encode's preconditions (41_frame_codec.md R130). -/
def encodable (ps : List (List Byte)) : Bool :=
  decide (ps.length ≤ Config.paramCeiling) && ps.all (fun p => decide (p.length ≤ 255))

/-- Encode (41_frame_codec.md R131): the padded request frame, or ArgumentOutOfRange before any byte. -/
def encodeFrame (op : Byte) (ps : List (List Byte)) : Except ErrorKind (List Byte) :=
  if encodable ps then .ok (padFrame (frameBody op ps)) else .error .argumentOutOfRange

/-- Every byte of a frame is sent in index order (43_command_engine.md R187). -/
def sendBytes : List Byte → State → State
  | [], s => s
  | b :: bs, s => sendBytes bs { s.txByte b with txIdx := s.txIdx + 1 }

/-! ### The bytes of a decode -/

/-- `k` bytes, in the order received (41_frame_codec.md R142). -/
def readBytes : Nat → State → List Byte × State
  | 0, s => ([], s)
  | k + 1, s => (s.rxByte.1 :: (readBytes k s.rxByte.2).1, (readBytes k s.rxByte.2).2)

/-- `k` bytes read and discarded. -/
def drain : Nat → State → State
  | 0, s => s
  | k + 1, s => drain k s.rxByte.2

/-- PadRx() (41_frame_codec.md R148): with RX_PAD, filler is read until the exchanges of the receive phase are a multiple
of 4. -/
def padRx (s : State) : State := if s.cfg.rxPad then drain (padCount s.rxCount) s else s

/-- `st.slots[i] <- p`. -/
def storeSlot (slots : List (List Byte)) (i : Nat) (p : List Byte) : List (List Byte) :=
  slots.take i ++ p :: slots.drop (i + 1)

/-- `if st.err = none: st.slots[i] <- p` (41_frame_codec.md R142, 42_demux.md R164). -/
def State.store (s : State) (i : Nat) (p : List Byte) : State :=
  match s.err with
  | none => { s with slots := storeSlot s.slots i p }
  | some _ => s

/-! ### The steps both modes share -/

/-- The start-marker hunt with `k` probes left (41_frame_codec.md R137): ABORT, then the limit, then one byte. -/
def hunt : Nat → State → Ended
  | 0, s =>
    if s.sampleAbort.1 = .high then (s.sampleAbort.2, some .cancelled)
    else (s.sampleAbort.2, some .framingError)
  | k + 1, s =>
    if s.sampleAbort.1 = .high then (s.sampleAbort.2, some .cancelled)
    else
      let b := s.sampleAbort.2.rxByte.1
      let t := { s.sampleAbort.2.rxByte.2 with probe := s.probe + 1 }
      if b = Config.startMarker then ({ t with marker := true }, none) else hunt k t

/-- The error sentinel, tested first, then the echo (41_frame_codec.md R138, R139). -/
def echoCheck (op : Byte) (s : State) : Ended :=
  let e := s.rxByte.1
  let t := { s.rxByte.2 with marker := false }
  if e = s.cfg.errCmd then (padRx (drain 2 t), some .deviceErrorReply)
  else if e = replyOp op then (t, none)
  else (t, some .unexpectedCommandEcho)

/-- The terminator (41_frame_codec.md R143): receive padding, then a latched error, then the check. -/
def finishFrame (s : State) : Ended :=
  let t := s.rxByte.1
  let s := padRx s.rxByte.2
  match s.err with
  | some e => (s, some e)
  | none => if t = Config.endMarker then (s, none) else (s, some .missingTerminator)

/-! ### Single mode -/

/-- The value-shape latch of a single value (41_frame_codec.md R142). -/
def latchShape (cap : Nat) (exact : Option Nat) (len : Nat) (s : State) : State :=
  if cap < len then s.latch .bufferTooSmall
  else
    match exact with
    | some w => if len < w then s.latch .shortValue else s
    | none => s

/-- The one parameter of a single value (41_frame_codec.md R142): every payload byte is read, stored or not. -/
def readValue (cap : Nat) (exact : Option Nat) (s : State) : State :=
  let len := s.rxByte.1.toNat
  let s := latchShape cap exact len s.rxByte.2
  let p := (readBytes len s).1
  let s := (readBytes len s).2
  match s.err with
  | none => { s.store 0 p with m := 1 }
  | some _ => s

/-- Steps 4-7 in Single mode (41_frame_codec.md R140, R142-R144). -/
def singleBody (cap : Nat) (exact : Option Nat) (s : State) : Ended :=
  let c := s.rxByte.1
  let s := { s.rxByte.2 with n := c }
  if c = 1 then finishFrame (readValue cap exact s) else (s, some .paramCountMismatch)

/-- The start of a decode (41_frame_codec.md R137, R145): unless the marker has been read already (log 13), the hunt with
fresh counters. -/
def findMarker (s : State) : Ended :=
  if s.marker then (s, none) else hunt s.cfg.probeLimit { s with probe := 0, m := 0 }

/-- DecodeSingle (41_frame_codec.md R145). -/
def decodeSingle (op : Byte) (cap : Nat) (exact : Option Nat) (s : State) : Ended :=
  ((findMarker s).andThen (echoCheck op)).andThen (singleBody cap exact)

end Sys2Proof.Machine
end

