-- ==== Sys2Proof/Machine/Demux.lean ====
section
/-! DEFINITION. The Response Demultiplexer: Decode in List mode (42_demux.md R160-R171). -/

namespace Sys2Proof.Machine

/-- A record within the clamp: checked against the record capacity, read whole, stored unless an error is latched
(42_demux.md R164). -/
def readRecord (recCap i : Nat) (s : State) : State :=
  let len := s.rxByte.1.toNat
  let s := if recCap < len then s.rxByte.2.latch .bufferTooSmall else s.rxByte.2
  (readBytes len s).2.store i (readBytes len s).1

/-- A record beyond the clamp: read and discarded, never checked (42_demux.md R164). -/
def drainRecord (s : State) : State := drain s.rxByte.1.toNat s.rxByte.2

/-- The records from number `i` on, `left` of them (42_demux.md R164). -/
def readRecords (recCap : Nat) : (left i : Nat) → State → State
  | 0, _, s => s
  | left + 1, i, s =>
    readRecords recCap left (i + 1) (if i < s.m then readRecord recCap i s else drainRecord s)

/-- Steps 4-7 in List mode: the count and the clamp, the truncation flag, the records, the terminator (42_demux.md
R162-R165). -/
def listBody (maxParams recCap : Nat) (s : State) : Ended :=
  let c := s.rxByte.1
  let m := min c.toNat maxParams
  let s := { s.rxByte.2 with n := c, m := m, truncated := truncatedFlag c m }
  finishFrame (readRecords recCap c.toNat 0 s)

/-- DecodeList (42_demux.md R166). -/
def decodeList (op : Byte) (maxParams recCap : Nat) (s : State) : Ended :=
  let s := if s.marker then s else { s with truncated := false }
  ((findMarker s).andThen (echoCheck op)).andThen (listBody maxParams recCap)

/-- Decode (41_frame_codec.md R136), by its mode. -/
def decodeReply (op : Byte) (mode : DecodeMode) (s : State) : Ended :=
  match mode with
  | .single cap exact => decodeSingle op cap exact s
  | .list maxParams recCap => decodeList op maxParams recCap s

end Sys2Proof.Machine
end

