-- ==== Sys2Proof/Machine/Engine.lean ====
section
/-! DEFINITION. The Command Engine's per-call state machine: accept, one rule for each engine state, and the run of a
call from any state of it to its end (43_command_engine.md R180-R199). -/

namespace Sys2Proof.Machine

/-- Accept, in Idle (43_command_engine.md R180, R182): `REQ`, the latches, the clears, and where the call begins. A
selector outside the catalogue or a failed argument check is ArgumentOutOfRange before any bus activity. The caller's
buffer comes with the call (10_state.md R41; log 16). -/
def accept (r : Request) (s : State) : State :=
  let a := latchArgs s.cfg r
  let s := { s.emit (.req r) with
    op := r.sel, args := a, err := none, truncated := false, m := 0,
    slots := List.replicate (slotCount s.cfg r.sel a) [] }
  match r.sel with
  | .resetSeq => s.enter .resetSeq
  | .cmd b =>
    if known b && argsOk s.cfg b r then s.enter .acquireBus else s.takeError .argumentOutOfRange

/-- AcquireBus (43_command_engine.md R184): while another holder has the bus the block holds there (20_memory.md R70; log
8), else it takes the bus. -/
def actAcquire (s : State) : State :=
  if s.takeBus.1 then s.takeBus.2 else ({ s.takeBus.2.emit .acq with busHeld := true }).enter .awaitReadyTx

/-- How a state ends whose primitive may raise: on to `next`, or the error is taken (43_command_engine.md R181). -/
def settle (next : Fsm) (r : Ended) : State :=
  match r.2 with
  | none => r.1.enter next
  | some e => r.1.takeError e

/-- AwaitReadyTx (43_command_engine.md R185). -/
def actAwaitTx (s : State) : State := settle .selectTx (waitReady s)

/-- SelectTx (43_command_engine.md R186). -/
def actSelectTx (s : State) : State := (select s).enter .sendFrame

/-- The request frame of the call (43_command_engine.md R187). ResetSeq has none and never comes here (log 17). -/
def requestFrame (s : State) : Except ErrorKind (List Byte) :=
  match opByte s.op with
  | some b => encodeFrame b (params b s.args)
  | none => .error .argumentOutOfRange

/-- SendFrame (43_command_engine.md R187). Encode cannot fail on arguments that passed the check of R183. -/
def actSend (s : State) : State :=
  match requestFrame s with
  | .ok f => (sendBytes f { s with tx := f, txIdx := 0 }).enter .deselectTx
  | .error e => s.takeError e

/-- DeselectTx (43_command_engine.md R188). -/
def actDeselectTx (s : State) : State := (deselect s).enter .awaitReadyRx

/-- AwaitReadyRx (43_command_engine.md R189): the same bound, a fresh timer. -/
def actAwaitRx (s : State) : State := settle .selectRx (waitReady s)

/-- SelectRx (43_command_engine.md R190): a receive phase begins. -/
def actSelectRx (s : State) : State := { (select s) with rxCount := 0 }.enter .receiveFrame

/-- The decode of the call in flight (43_command_engine.md R191). ResetSeq never comes here (log 17). -/
def decodeCall (s : State) : Ended :=
  match opByte s.op with
  | some b => decodeReply b (decodeMode s.cfg b s.args) s
  | none => (s, some .unexpectedCommandEcho)

/-- ReceiveFrame (43_command_engine.md R191): the decoded value stays in the slots for Done. -/
def actReceive (s : State) : State :=
  settle .deselectRx ({ (decodeCall s).1 with marker := false }, (decodeCall s).2)

/-- DeselectRx (43_command_engine.md R192). -/
def actDeselectRx (s : State) : State := (deselect s).enter .releaseBus

/-- ReleaseBus (43_command_engine.md R193). -/
def actRelease (s : State) : State := ({ s.emit .rel with busHeld := false }).enter (outcomeState s.err)

/-- Done (43_command_engine.md R194): the value is delivered once and not retained. -/
def actDone (s : State) : State :=
  (s.emit (.resp (.ok (callValue s.op s.slots s.m s.truncated)))).enter .idle

/-- ResetSeq (43_command_engine.md R195). -/
def actResetSeq (s : State) : State := ((resetSequence s).emit (.resp (.ok .unit))).enter .idle

/-- One engine state's rule, from its entry (43_command_engine.md R184-R195). Idle waits. -/
def action (s : State) : State :=
  match s.fsm with
  | .idle => s
  | .acquireBus => actAcquire s
  | .awaitReadyTx => actAwaitTx s
  | .selectTx => actSelectTx s
  | .sendFrame => actSend s
  | .deselectTx => actDeselectTx s
  | .awaitReadyRx => actAwaitRx s
  | .selectRx => actSelectRx s
  | .receiveFrame => actReceive s
  | .deselectRx => actDeselectRx s
  | .releaseBus => actRelease s
  | .done => actDone s
  | .failed => s.returnFromError
  | .resetSeq => actResetSeq s

/-- The engine runs: state after state, until it is back in Idle or holds in AcquireBus (60_exceptions.md R240). -/
def run : Nat → State → State
  | 0, s => s
  | k + 1, s =>
    if s.fsm = .idle then s
    else if (action s).fsm = .acquireBus then action s
    else run k (action s)

/-- The longest way through the states of 43_command_engine.md R181, from AcquireBus to Idle. -/
def callLength : Nat := 11

/-- The call in flight goes on to its end, or to a hold (43_command_engine.md R181, 60_exceptions.md R240; log 2). -/
def resume (s : State) : State := run callLength s

/-- A whole call, from its request in Idle (43_command_engine.md R180, R181, R210). -/
def call (r : Request) (s : State) : State := resume (accept r s)

/-- A request is presented (43_command_engine.md R180): in Idle it is accepted, in any other state it waits behind the
requests before it (log 9). -/
def present (r : Request) (s : State) : State :=
  if s.fsm = .idle then call r s else { s with requests := s.requests ++ [r] }

/-- The byte `b` arrives as the echo of a response: where the block is about to read the echo, it reads b and the call
goes on (41_frame_codec.md R138, R139). Anywhere else no echo byte is read, and nothing happens (log 12). -/
def echoArrives (b : Byte) (s : State) : State :=
  if s.atEcho then resume { s with env := { s.env with rx := b :: s.env.rx } } else s

/-- ABORT reads 1 (43_command_engine.md R197): at a suspension point that sample is the next one taken, and the call ends
through the error exit. Anywhere else the level is not sampled, and nothing happens (log 14). -/
def abortRises (s : State) : State :=
  if s.suspended then resume { s with env := { s.env with abort := .high :: s.env.abort } } else s

end Sys2Proof.Machine
end

