-- ==== Sys2Proof/Machine/Commands.lean ====
section
/-! DEFINITION. The meanings of the seven wire operations (43_command_engine.md R200-R206): each presents its request,
which in Idle is the whole call. An error result is a next state (60_exceptions.md R240). -/

namespace Sys2Proof.Machine

/-- GETFWVERSION (43_command_engine.md R200). -/
def execGetfwversion (cap : Nat) (timeout : Option Bound) (s : State) : Host.Outcome State Fault Refusal :=
  .next (present ⟨.cmd 0x37, .cap cap, timeout⟩ s)

/-- GETCONNSTATUS (43_command_engine.md R201). -/
def execGetconnstatus (timeout : Option Bound) (s : State) : Host.Outcome State Fault Refusal :=
  .next (present ⟨.cmd 0x20, .none, timeout⟩ s)

/-- GETMACADDR (43_command_engine.md R202). -/
def execGetmacaddr (timeout : Option Bound) (s : State) : Host.Outcome State Fault Refusal :=
  .next (present ⟨.cmd 0x22, .none, timeout⟩ s)

/-- STARTSCAN (43_command_engine.md R203). -/
def execStartscan (timeout : Option Bound) (s : State) : Host.Outcome State Fault Refusal :=
  .next (present ⟨.cmd 0x36, .none, timeout⟩ s)

/-- SCANNETWORKS (43_command_engine.md R204). -/
def execScannetworks (maxRecords : Nat) (timeout : Option Bound) (s : State) : Host.Outcome State Fault Refusal :=
  .next (present ⟨.cmd 0x27, .maxRecords maxRecords, timeout⟩ s)

/-- CONNECT (43_command_engine.md R205). -/
def execConnect (ssid pass : List Byte) (timeout : Option Bound) (s : State) : Host.Outcome State Fault Refusal :=
  .next (present ⟨.cmd 0x11, .credentials ssid pass, timeout⟩ s)

/-- DISCONNECT (43_command_engine.md R206). -/
def execDisconnect (timeout : Option Bound) (s : State) : Host.Outcome State Fault Refusal :=
  .next (present ⟨.cmd 0x30, .none, timeout⟩ s)

end Sys2Proof.Machine
end

