-- ==== Sys2Proof/Machine/Control.lean ====
section
/-! DEFINITION. The meanings of RESETSEQ and ABORT (43_command_engine.md R207, R208). -/

namespace Sys2Proof.Machine

/-- RESETSEQ (43_command_engine.md R207): a request like any other, without bus activity. -/
def execResetseq (s : State) : Host.Outcome State Fault Refusal := .next (present ⟨.resetSeq, .none, none⟩ s)

/-- ABORT (43_command_engine.md R208). -/
def execAbort (s : State) : Host.Outcome State Fault Refusal := .next (abortRises s)

end Sys2Proof.Machine
end

