-- ==== Sys2Proof/Machine/Replies.lean ====
section
/-! DEFINITION. The meanings of the response rows: the byte after a response's start marker arrives (30_encoding.md R86,
R88, R93; 41_frame_codec.md R138, R139; log 12). -/

namespace Sys2Proof.Machine

/-- GETFWVERSION.reply (41_frame_codec.md R139). -/
def execGetfwversionReply (s : State) : Host.Outcome State Fault Refusal := .next (echoArrives 0xB7 s)

/-- GETCONNSTATUS.reply (41_frame_codec.md R139). -/
def execGetconnstatusReply (s : State) : Host.Outcome State Fault Refusal := .next (echoArrives 0xA0 s)

/-- GETMACADDR.reply (41_frame_codec.md R139). -/
def execGetmacaddrReply (s : State) : Host.Outcome State Fault Refusal := .next (echoArrives 0xA2 s)

/-- STARTSCAN.reply (41_frame_codec.md R139). -/
def execStartscanReply (s : State) : Host.Outcome State Fault Refusal := .next (echoArrives 0xB6 s)

/-- SCANNETWORKS.reply (41_frame_codec.md R139). -/
def execScannetworksReply (s : State) : Host.Outcome State Fault Refusal := .next (echoArrives 0xA7 s)

/-- CONNECT.reply (41_frame_codec.md R139). -/
def execConnectReply (s : State) : Host.Outcome State Fault Refusal := .next (echoArrives 0x91 s)

/-- DISCONNECT.reply (41_frame_codec.md R139). -/
def execDisconnectReply (s : State) : Host.Outcome State Fault Refusal := .next (echoArrives 0xB0 s)

/-- ERR_CMD.reply (41_frame_codec.md R138): the configuration's error sentinel. -/
def execErrCmdReply (s : State) : Host.Outcome State Fault Refusal := .next (echoArrives s.cfg.errCmd s)

end Sys2Proof.Machine
end

