-- ==== Sys2Proof/Machine/Dispatch.lean ====
section
/-! DEFINITION. One arm an instruction. -/

namespace Sys2Proof.Machine

def exec (i : Instr) (s : State) : Host.Outcome State Fault Refusal :=
  match i with
  | .getfwversion cap timeout => Sys2Proof.Machine.execGetfwversion cap timeout s
  | .getconnstatus timeout => Sys2Proof.Machine.execGetconnstatus timeout s
  | .getmacaddr timeout => Sys2Proof.Machine.execGetmacaddr timeout s
  | .startscan timeout => Sys2Proof.Machine.execStartscan timeout s
  | .scannetworks maxRecords timeout => Sys2Proof.Machine.execScannetworks maxRecords timeout s
  | .connect ssid pass timeout => Sys2Proof.Machine.execConnect ssid pass timeout s
  | .disconnect timeout => Sys2Proof.Machine.execDisconnect timeout s
  | .getfwversionReply => Sys2Proof.Machine.execGetfwversionReply s
  | .getconnstatusReply => Sys2Proof.Machine.execGetconnstatusReply s
  | .getmacaddrReply => Sys2Proof.Machine.execGetmacaddrReply s
  | .startscanReply => Sys2Proof.Machine.execStartscanReply s
  | .scannetworksReply => Sys2Proof.Machine.execScannetworksReply s
  | .connectReply => Sys2Proof.Machine.execConnectReply s
  | .disconnectReply => Sys2Proof.Machine.execDisconnectReply s
  | .errCmdReply => Sys2Proof.Machine.execErrCmdReply s
  | .resetseq => Sys2Proof.Machine.execResetseq s
  | .abort => Sys2Proof.Machine.execAbort s

end Sys2Proof.Machine
end

