-- ==== Sys2Proof/Machine/Fetch.lean ====
section
/-! DEFINITION. What the block takes as its next instruction, what it does with one that no row of the table lists, and
the placing of a table word where it is fetched (log 1, log 2, log 19). -/

namespace Sys2Proof.Machine

/-- The next instruction and the state with that input taken (log 1): in Idle the oldest request (43_command_engine.md
R180); at a suspension point an ABORT sample that reads 1 (R197); after a response's start marker the echo byte
(41_frame_codec.md R138). Everywhere else the engine goes on by itself. -/
def fetch (s : State) : Option (Code × State) :=
  if s.fsm = .idle then
    match s.requests with
    | [] => none
    | r :: rest => some (.request r, { s with requests := rest })
  else if s.atEcho then some (.echo s.takeRx.1, s.takeRx.2)
  else if s.suspended && decide (s.takeAbort.1 = .high) then some (.abort .high, s.takeAbort.2)
  else none

/-- What no row of the table lists: a request with an unlisted selector or the wrong arguments is a call that ends
Err(ArgumentOutOfRange) (43_command_engine.md R182), an unlisted echo byte is UnexpectedCommandEcho (30_encoding.md R93),
an ABORT level of 0 does nothing (43_command_engine.md R197). -/
def unlisted (c : Code) (s : State) : State :=
  match c with
  | .request r => call r s
  | .echo b => echoArrives b s
  | .abort _ => s

/-- The state for a table word's request: Idle, the request the oldest. -/
def placeRequest (s : State) (r : Request) : State := { s with fsm := .idle, requests := r :: s.requests }

/-- The state for a table word's echo byte: a receive phase of which one byte, the start marker, has been read, and b the
next byte. The call in flight is the command that b echoes, or the one there is. -/
def placeEcho (s : State) (b : Byte) : State :=
  { s with
    fsm := .receiveFrame, busHeld := true, cs := .low, err := none, marker := true, probe := 1, rxCount := 1,
    op := if known (requestOp b) then .cmd (requestOp b) else s.op,
    env := { s.env with rx := b :: s.env.rx } }

/-- A table word placed where the next step fetches it. -/
def placeWord (s : State) (w : Nat) : State :=
  match tableCode w with
  | .request r => placeRequest s r
  | .echo b => placeEcho s b
  | .abort _ => s

/-- Construction with a configuration (70_reset_and_hazards.md R250): outside the ranges of 00_scope.md R7 and R8 it is
refused (93_implementation_defined.md U14). -/
def construct (cfg : Cfg) : Host.Outcome State Fault Refusal :=
  if Cfg.inRange cfg then .next (State.blockReset cfg) else .refused .configOutOfRange

end Sys2Proof.Machine
end

