-- ==== Sys2Proof/Machine/Step.lean ====
section
/-! DEFINITION. One step: the next instruction is fetched, decoded and executed; with none to fetch, the call in flight
goes on to its end, and in Idle the block waits (log 2). -/

namespace Sys2Proof.Machine

def step (s : State) : Host.Outcome State Fault Refusal :=
  if Cfg.inRange s.cfg then
    match fetch s with
    | none => .next (resume s)
    | some (c, t) =>
      match decode s.cfg.errCmd c with
      | .ok i => exec i t
      | .error _ => .next (unlisted c t)
  else .refused .configOutOfRange

/-- The table word `w` stored where `step` fetches its next instruction. Every row is one byte wide. -/
def State.withFetchWord (s : State) (_nbits w : Nat) : State := placeWord s w

end Sys2Proof.Machine
end

