-- ==== Sys2Proof/Machine/Procedure.lean ====
section
/-! DEFINITION. The whole call as one procedure, transcribed from 43_command_engine.md R210 with its try/finally. The
machine runs the state machine of Machine/Engine.lean; this second reading of the spec is what that one is compared
with. It moves no state register. -/

namespace Sys2Proof.Machine

/-- `try body finally fin`: the finally part runs whether the body returned or raised (43_command_engine.md R210). -/
def Ended.tryFinally (body : Ended) (fin : State → State) : Ended := (fin body.1, body.2)

/-- A raise sets `st.err` unless an error is latched already (43_command_engine.md R210, 60_exceptions.md R226). -/
def Ended.recordError (r : Ended) : State :=
  match r.2 with
  | none => r.1
  | some e => r.1.latch e

/-- `Acquire(); st.bus_held <- true`, for a bus that no other holder has. -/
def acquireFree (s : State) : State := { s.takeBus.2.emit .acq with busHeld := true }

/-- `Release(); st.bus_held <- false`. -/
def releaseHeld (s : State) : State := { s.emit .rel with busHeld := false }

/-- `select(); send Encode(opbyte(sel), Params(sel, args)); deselect()`. -/
def sendPhase (s : State) : Ended :=
  match requestFrame (select s) with
  | .ok f => (deselect (sendBytes f { select s with tx := f, txIdx := 0 }), none)
  | .error e => (deselect (select s), some e)

/-- `select(); try: v <- Decode(sel, args) finally: deselect()`. -/
def receivePhase (s : State) : Ended :=
  let r := decodeCall { select s with rxCount := 0 }
  Ended.tryFinally ({ r.1 with marker := false }, r.2) deselect

/-- What the procedure delivers: `RESP(st.err = none ? Ok(v) : Err(st.err))`. -/
def respond (s : State) : State :=
  match s.err with
  | none => s.emit (.resp (.ok (callValue s.op s.slots s.m s.truncated)))
  | some e => s.emit (.resp (.err e))

/-- `Call(sel, args)` (43_command_engine.md R210), entered from Idle on a bus that no other holder has. -/
def callProcedure (r : Request) (s : State) : State :=
  let a := latchArgs s.cfg r
  let s := { s.emit (.req r) with
    op := r.sel, args := a, err := none, truncated := false, m := 0,
    slots := List.replicate (slotCount s.cfg r.sel a) [] }
  match r.sel with
  | .resetSeq => (resetSequence s).emit (.resp (.ok .unit))
  | .cmd b =>
    if known b && argsOk s.cfg b r then
      let body := (((waitReady (acquireFree s)).andThen sendPhase).andThen waitReady).andThen receivePhase
      respond (releaseHeld body.recordError)
    else (s.latch .argumentOutOfRange).emit (.resp (.err .argumentOutOfRange))

end Sys2Proof.Machine
end

