-- ==== Sys2Proof/Machine/Transport.lean ====
section
/-! DEFINITION. The trace as the calls of the transport contract (60_exceptions.md R236, 00_scope.md R11), with the
identifiers of the configuration record (10_state.md R23). -/

namespace Sys2Proof.Machine

/-- A call of the transport contract (00_scope.md R11). transfer_block is not used (20_memory.md R65; log 11). -/
inductive TransportCall where
  | acquire (bus cs mode clock : Nat)
  | release (bus : Nat)
  | transferByte (bus cs : Nat) (keepSelected : Bool) (out : Byte) (answer : Byte)
  | gpioRead (line : Nat) (level : Level)
  | gpioSet (line : Nat)
  | gpioClear (line : Nat)
  | gpioInit (line : Nat) (mode : PinMode)
  | delay (us : Nat)
  deriving DecidableEq, Repr

/-- The identifier of a line (10_state.md R23). -/
def lineId (c : Cfg) : Line → Nat
  | .cs => c.cs
  | .ready => c.ready
  | .reset => c.reset
  | .boot => c.boot

/-- The transport call behind an event (00_scope.md R11). The host's events and the timer and ABORT samples are none. -/
def transportCall (c : Cfg) : Event → Option TransportCall
  | .acq => some (.acquire c.bus c.cs c.mode c.clock)
  | .rel => some (.release c.bus)
  | .set l => some (.gpioSet (lineId c l))
  | .clr l => some (.gpioClear (lineId c l))
  | .init l m => some (.gpioInit (lineId c l) m)
  | .read l v => some (.gpioRead (lineId c l) v)
  | .x o i => some (.transferByte c.bus c.cs true o i)
  | .dly us => some (.delay us)
  | .req _ => none
  | .resp _ => none
  | .tstart => none
  | .texp _ => none
  | .abt _ => none

/-- The transport calls the block has made, oldest first. -/
def State.transportCalls (s : State) : List TransportCall := s.trace.filterMap (transportCall s.cfg)

/-- The results delivered to the host, oldest first (10_state.md R40). -/
def State.results (s : State) : List Result :=
  s.trace.filterMap (fun e => match e with | .resp r => some r | _ => none)

end Sys2Proof.Machine
end

