-- ==== Sys2Proof/Safety.lean ====
section
/-! DEFINITION. What a sound state of the machine is, in the terms the statements use: the invariants of 10_state.md
R26-R29, R32-R34, R41 and of 60_exceptions.md R228. -/

namespace Sys2Proof.Safety

open Sys2Proof.Machine

/-- The engine is inside a wire operation's call (43_command_engine.md R181). -/
def inWireCall : Fsm → Bool
  | .idle | .failed | .resetSeq => false
  | .acquireBus | .awaitReadyTx | .selectTx | .sendFrame | .deselectTx | .awaitReadyRx | .selectRx | .receiveFrame
  | .deselectRx | .releaseBus | .done => true

/-- The error latch is still clear in this state: no error of the call has been taken (43_command_engine.md R181,
60_exceptions.md R228). -/
def errClear : Fsm → Bool
  | .acquireBus | .awaitReadyTx | .selectTx | .sendFrame | .deselectTx | .awaitReadyRx | .selectRx | .receiveFrame
  | .done | .resetSeq => true
  | .idle | .failed | .deselectRx | .releaseBus => false

/-- The operation in flight is one of the catalogue and its arguments passed the check of 43_command_engine.md R183. -/
def acceptedCall (s : State) : Prop :=
  ∃ b, s.op = .cmd b ∧ known b = true ∧ encodable (params b s.args) = true ∧ s.args.cap ≤ 255 ∧ s.args.maxRecords ≤ 255

/-- A sound state. -/
structure Sound (s : State) : Prop where
  /-- the configuration is one the block is defined for (00_scope.md R7, R8) -/
  config : Cfg.inRange s.cfg = true
  /-- the bus is held exactly in the states between Acquire and Release (10_state.md R26) -/
  bus : s.busHeld = s.fsm.holdsBus
  /-- chip-select is active exactly between a select and the next deselect (10_state.md R27) -/
  chipSelect : s.cs = s.fsm.csLevel
  /-- in a wire operation's call the operation and its arguments are accepted ones (43_command_engine.md R182) -/
  accepted : inWireCall s.fsm = true → acceptedCall s
  /-- no error is latched before the exit path (10_state.md R28) -/
  errNone : errClear s.fsm = true → s.err = none
  /-- Failed has an error to deliver (43_command_engine.md R193) -/
  errSome : s.fsm = .failed → s.err ≠ none
  /-- the start marker counts only inside ReceiveFrame (log 13) -/
  markerPlace : s.marker = true → s.fsm = .receiveFrame
  /-- the transmit register holds whole, padded frames (10_state.md R32) -/
  txAligned : s.tx.length % 4 = 0 ∧ s.tx.length ≤ 1796 ∧ s.txIdx ≤ s.tx.length
  /-- the probe counter is within its bound (10_state.md R33) -/
  probeBound : s.probe ≤ s.cfg.probeLimit
  /-- the clamped count is within its bound (10_state.md R34) -/
  countBound : s.m ≤ min 255 s.cfg.listCap
  /-- no slot holds more than a byte's length says (10_state.md R41, 30_encoding.md R89) -/
  slotBound : ∀ p ∈ s.slots, p.length ≤ 255

/-! ### The events of a call, piece by piece -/

/-- A frame sent, with the bytes the device returned meanwhile (43_command_engine.md R187). -/
def sentEvents (frame answers : List Byte) : List Event := List.zipWith Event.x frame answers

/-- Bytes received, filler sent for each (00_scope.md R12). -/
def receivedEvents (bytes : List Byte) : List Event := bytes.map (Event.x Config.fillByte)

/-- A ready wait whose first poll finds READY low (40_handshake.md R114). -/
def readyAtOnce : List Event := [.tstart, .abt .low, .read .ready .low]

/-- A deselect with its settling delay (40_handshake.md R117). -/
def deselectEvents (c : Cfg) : List Event := [.set .cs, .dly c.tSettleUs]

/-- How many events of a trace satisfy `p`. -/
def countEvents (p : Event → Bool) (l : List Event) : Nat := (l.filter p).length

/-- A byte exchange. -/
def isExchange : Event → Bool
  | .x _ _ => true
  | _ => false

/-- `ACQ`. -/
def isAcq : Event → Bool
  | .acq => true
  | _ => false

/-- `REL`. -/
def isRel : Event → Bool
  | .rel => true
  | _ => false

/-- `RESP`. -/
def isResp : Event → Bool
  | .resp _ => true
  | _ => false

/-! ### The engine's ways through its states (43_command_engine.md R181) -/

/-- The OBS events of a way through states: each pair of neighbours, with the error latch at that change. -/
def pathObs : List (Fsm × Option ErrorKind) → List Obs
  | a :: b :: rest => ⟨a.1, b.1, b.2⟩ :: pathObs (b :: rest)
  | _ => []

/-- The way of a wire operation from AcquireBus up to ReceiveFrame, nothing latched. -/
def wayToReceive : List (Fsm × Option ErrorKind) :=
  [(.idle, none), (.acquireBus, none), (.awaitReadyTx, none), (.selectTx, none), (.sendFrame, none),
    (.deselectTx, none), (.awaitReadyRx, none), (.selectRx, none), (.receiveFrame, none)]

/-- The whole way of a successful wire operation. -/
def successWay : List (Fsm × Option ErrorKind) :=
  wayToReceive ++ [(.deselectRx, none), (.releaseBus, none), (.done, none), (.idle, none)]

/-- The end of a way whose error was raised in ReceiveFrame. -/
def receiveErrorEnd (e : ErrorKind) : List (Fsm × Option ErrorKind) :=
  [(.deselectRx, some e), (.releaseBus, some e), (.failed, some e), (.idle, some e)]

/-- The end of a way whose error was raised in a ready wait. -/
def waitErrorEnd (e : ErrorKind) : List (Fsm × Option ErrorKind) :=
  [(.releaseBus, some e), (.failed, some e), (.idle, some e)]

/-- The ways of an accepted wire operation from Idle: a hold in AcquireBus, a ready wait that fails before the send or
before the receive, a receive that fails, success. A call that has held goes on from AcquireBus, a way's tail. -/
def isWireWay (way : List (Fsm × Option ErrorKind)) : Prop :=
  way = [(.idle, none), (.acquireBus, none)]
  ∨ (∃ e, way = wayToReceive.take 3 ++ waitErrorEnd e ∧ (e = .handshakeTimeout ∨ e = .cancelled))
  ∨ (∃ e, way = wayToReceive.take 7 ++ waitErrorEnd e ∧ (e = .handshakeTimeout ∨ e = .cancelled))
  ∨ (∃ e, way = wayToReceive ++ receiveErrorEnd e ∧ e ≠ .argumentOutOfRange ∧ e ≠ .handshakeTimeout)
  ∨ way = successWay

/-! ### Two runs compared -/

/-- The runs from `s` to `u` and from `t` to `v` end in the same state but for the scratch registers that neither wrote:
each of those holds what it held before, in both. -/
structure SameButUnwritten (s t u v : State) : Prop where
  others : { v with
    tx := u.tx, txIdx := u.txIdx, probe := u.probe, n := u.n, timer := u.timer, rs := u.rs, rxCount := u.rxCount } = u
  tx : v.tx = u.tx ∧ v.txIdx = u.txIdx ∨ u.tx = s.tx ∧ v.tx = t.tx ∧ u.txIdx = s.txIdx ∧ v.txIdx = t.txIdx
  probe : v.probe = u.probe ∨ u.probe = s.probe ∧ v.probe = t.probe
  n : v.n = u.n ∨ u.n = s.n ∧ v.n = t.n
  timer : v.timer = u.timer ∨ u.timer = s.timer ∧ v.timer = t.timer
  rs : v.rs = u.rs ∨ u.rs = s.rs ∧ v.rs = t.rs
  rxCount : v.rxCount = u.rxCount ∨ u.rxCount = s.rxCount ∧ v.rxCount = t.rxCount

/-! ### A call the device answers at once -/

/-- What passes between host, block and device in one call. -/
structure Exchange where
  /-- the host's request -/
  request : Request
  /-- the request frame the block sends -/
  frame : List Byte
  /-- the bytes the device returns meanwhile, discarded -/
  answers : List Byte
  /-- the response frame, from its start marker to its last byte -/
  reply : List Byte
  /-- the receive padding, with RX_PAD (41_frame_codec.md R148) -/
  filler : List Byte

/-- How much receive padding follows a phase of so many exchanges (41_frame_codec.md R148). -/
def fillerCount (c : Cfg) (exchanges : Nat) : Nat := if c.rxPad then padCount exchanges else 0

/-- The environment offers the exchange: the bus is free, READY is low at each first poll, ABORT stays 0, the device
answers the frame and sends the reply with its filler; `rest` is what the answer queues hold afterwards. -/
structure Offered (s : State) (x : Exchange) (rest : Env) : Prop where
  idle : s.fsm = .idle
  noMarker : s.marker = false
  bus : s.env.bus = false :: rest.bus
  ready : s.env.ready = .low :: .low :: rest.ready
  abort : s.env.abort = .low :: .low :: .low :: rest.abort
  polls : s.env.polls = rest.polls
  tx : s.env.tx = x.answers ++ rest.tx
  rx : s.env.rx = x.reply ++ x.filler ++ rest.rx
  tick : rest.tick = s.env.tick
  timers : rest.timers = s.env.timers + 2
  answers : x.answers.length = x.frame.length
  filler : x.filler.length = fillerCount s.cfg x.reply.length

/-- What a decode leaves: the count byte, the clamped count, the slots, the truncation flag, and the value delivered. -/
structure Decoded where
  n : Byte
  m : Nat
  slots : List (List Byte)
  truncated : Bool
  value : Value

/-- The events of a call that succeeds on the offered exchange (43_command_engine.md R209, for any frame and reply). -/
def successTrace (c : Cfg) (x : Exchange) (v : Value) : List Event :=
  [[.req x.request, .acq], readyAtOnce, [.clr .cs], sentEvents x.frame x.answers, deselectEvents c, readyAtOnce,
    [.clr .cs, .abt .low], receivedEvents (x.reply ++ x.filler), deselectEvents c, [.rel, .resp (.ok v)]].flatten

/-- The state after a call that succeeds on the offered exchange, for the timer value of its second wait: every field is
said here, and what is not written stays. -/
def afterSuccess (s : State) (x : Exchange) (d : Decoded) (timer : Nat) (rest : Env) : State :=
  { s with
    fsm := .idle, op := x.request.sel, args := latchArgs s.cfg x.request, busHeld := false, cs := .high,
    err := none, truncated := d.truncated, tx := x.frame, txIdx := x.frame.length, probe := 1, n := d.n, m := d.m,
    timer := timer, slots := d.slots, marker := false, rxCount := (x.reply ++ x.filler).length,
    trace := s.trace ++ successTrace s.cfg x d.value, obs := s.obs ++ pathObs successWay, env := rest }

/-- A single-value reply: start marker, echo, count 1, length, payload, end marker (30_encoding.md R87). -/
def singleReply (op : Byte) (payload : List Byte) : List Byte :=
  [Config.startMarker, replyOp op, 1, BitVec.ofNat 8 payload.length] ++ payload ++ [Config.endMarker]

/-- A list reply of these records (30_encoding.md R87). -/
def listReply (op : Byte) (records : List (List Byte)) : List Byte :=
  [Config.startMarker, replyOp op, BitVec.ofNat 8 records.length] ++ records.flatMap paramField ++ [Config.endMarker]

/-- The hunt over bytes that are not the start marker: before each, an ABORT sample that reads 0 (41_frame_codec.md
R137). -/
def huntEvents (bytes : List Byte) : List Event :=
  bytes.flatMap (fun b => [.abt .low, .x Config.fillByte b])

/-- The passes of a ready wait on which READY reads 1 and the timer has not expired (40_handshake.md R114). -/
def passEvents (passes : Nat) : List Event :=
  (List.replicate passes [Event.abt .low, .read .ready .high, .texp false]).flatten

/-- A ready wait of so many passes, with its last poll's events (40_handshake.md R114). -/
def waitEvents (passes : Nat) (last : List Event) : List Event := [.tstart] ++ passEvents passes ++ last

/-- Every exchange of a trace happens while chip-select is active, from the given level on (40_handshake.md R116, R117;
41_frame_codec.md R134). -/
def exchangesSelected : Level → List Event → Bool
  | _, [] => true
  | _, .clr .cs :: l => exchangesSelected .low l
  | _, .set .cs :: l => exchangesSelected .high l
  | .high, .x _ _ :: _ => false
  | v, _ :: l => exchangesSelected v l

/-- Select and deselect alternate along a trace, from the given level of chip-select on: each CLR(cs) comes on a high
line, each SET(cs) on a low one (40_handshake.md R116, R117). -/
def selectionsAlternate : Level → List Event → Bool
  | _, [] => true
  | v, .clr .cs :: l => decide (v = .high) && selectionsAlternate .low l
  | v, .set .cs :: l => decide (v = .low) && selectionsAlternate .high l
  | v, _ :: l => selectionsAlternate v l

/-- The end of a call whose error was raised in ReceiveFrame, from the state that raised it (60_exceptions.md R228,
R229). -/
def afterReceiveError (t : State) (e : ErrorKind) : State :=
  { t with
    fsm := .idle, err := some e, busHeld := false, cs := .high, marker := false,
    trace := t.trace ++ deselectEvents t.cfg ++ [.rel, .resp (.err e)],
    obs := t.obs ++ pathObs ((.receiveFrame, none) :: receiveErrorEnd e) }

/-- The end of a call whose error was raised in a ready wait (60_exceptions.md R228, R229). -/
def afterWaitError (t : State) (e : ErrorKind) : State :=
  { t with
    fsm := .idle, err := some e, busHeld := false,
    trace := t.trace ++ [.rel, .resp (.err e)],
    obs := t.obs ++ pathObs ((t.fsm, none) :: waitErrorEnd e) }

/-- The end of a call whose decode returned, from the state after the decode (43_command_engine.md R192-R194). -/
def afterReceive (t : State) : State :=
  { t with
    fsm := .idle, busHeld := false, cs := .high, marker := false,
    trace := t.trace ++ deselectEvents t.cfg
      ++ [.rel, .resp (.ok (callValue t.op t.slots t.m t.truncated))],
    obs := t.obs ++ pathObs [(.receiveFrame, none), (.deselectRx, none), (.releaseBus, none), (.done, none),
      (.idle, none)] }

end Sys2Proof.Safety
end

