-- ==== Sys2Proof/Certificates/Slice0/Obligations.lean ====
section
/-! DEFINITION. The statements for the provers. "Sound" and the shapes of traces and of final states are Safety.lean's.
Environment answers are queues of the state; a statement without a hypothesis on them holds for every environment. -/

open Sys2Proof Sys2Proof.Machine Sys2Proof.Safety

/-! ### Encoding -/

/-- Every byte of the table, as 30_encoding.md R85, R86 and R88 write them, decodes to its row's instruction, and a byte
that no row lists to none. That a request byte stands for operands of zero is log 1; the ERR_CMD byte is the table's
instance (log 4). -/
def Obligations.TableWordsDecodeToTheirRows : Prop :=
  decodeTableWord 8 0x37 = some (.getfwversion 0 none) ∧ decodeTableWord 8 0x20 = some (.getconnstatus none)
  ∧ decodeTableWord 8 0x22 = some (.getmacaddr none) ∧ decodeTableWord 8 0x36 = some (.startscan none)
  ∧ decodeTableWord 8 0x27 = some (.scannetworks 0 none) ∧ decodeTableWord 8 0x11 = some (.connect [] [] none)
  ∧ decodeTableWord 8 0x30 = some (.disconnect none) ∧ decodeTableWord 8 0xB7 = some .getfwversionReply
  ∧ decodeTableWord 8 0xA0 = some .getconnstatusReply ∧ decodeTableWord 8 0xA2 = some .getmacaddrReply
  ∧ decodeTableWord 8 0xB6 = some .startscanReply ∧ decodeTableWord 8 0xA7 = some .scannetworksReply
  ∧ decodeTableWord 8 0x91 = some .connectReply ∧ decodeTableWord 8 0xB0 = some .disconnectReply
  ∧ decodeTableWord 8 0xEF = some .errCmdReply
  ∧ decodeTableWord 8 0x50 = none

/-- Decoding what an instruction is encoded as gives it back, for every operand value. An echo byte that the
configuration makes the error sentinel is the sentinel's (00_scope.md R8), so the echo rows need ERR_CMD to be another
byte. -/
def Obligations.DecodeOfEncodeGivesTheInstruction : Prop :=
  ∀ (errCmd : Byte) (i : Instr),
    (∀ b, encode errCmd i = .echo b → i ≠ .errCmdReply → b ≠ errCmd) →
    decode errCmd (encode errCmd i) = .ok i

/-- Each code has one meaning: what decodes to an instruction is that instruction's own encoding, but for a ResetSeq
request, whose arguments nothing reads (log 18). -/
def Obligations.EachCodeHasOneMeaning : Prop :=
  ∀ (errCmd : Byte) (c : Code) (i : Instr), decode errCmd c = .ok i →
    c = encode errCmd i ∨ ∃ a t, c = .request ⟨.resetSeq, a, t⟩

/-- 30_encoding.md R82: the request frame without parameters, byte by byte. -/
def Obligations.ZeroParameterRequestIsFourBytes : Prop :=
  ∀ op : Byte, encodeFrame op [] = .ok [0xE0, op &&& 0x7F, 0x00, 0xEE]

/-- 41_frame_codec.md R130: Encode refuses more than 7 parameters and parameters over 255 bytes, and nothing else; the
engine never asks for such a frame. -/
def Obligations.EncodeRefusesExactlyBeyondItsLimits : Prop :=
  (∀ (op : Byte) (ps : List (List Byte)), (ps.length ≤ 7 ∧ ∀ p ∈ ps, p.length ≤ 255) →
    ∃ f, encodeFrame op ps = .ok f)
  ∧ (∀ (op : Byte) (ps : List (List Byte)), ¬(ps.length ≤ 7 ∧ ∀ p ∈ ps, p.length ≤ 255) →
    encodeFrame op ps = .error .argumentOutOfRange)
  ∧ (∀ (c : Cfg) (b : Byte) (r : Request), argsOk c b r = true →
    ∃ f, encodeFrame b (params b (latchArgs c r)) = .ok f)

/-- 30_encoding.md R83: the layout of a request frame, offset by offset: the head, each length byte and payload at its
offset, the end marker at U - 1, filler from U on. -/
def Obligations.RequestFrameLayout : Prop :=
  ∀ (op : Byte) (ps : List (List Byte)) (f : List Byte), encodeFrame op ps = .ok f →
    let u := 4 + ps.length + (ps.map List.length).sum
    f.take 3 = [0xE0, op &&& 0x7F, BitVec.ofNat 8 ps.length]
    ∧ (∀ (i : Nat) (p : List Byte), ps[i]? = some p →
        (f.drop (3 + ((ps.take i).map (fun q => 1 + q.length)).sum)).take (1 + p.length)
          = BitVec.ofNat 8 p.length :: p)
    ∧ f[u - 1]? = some 0xEE
    ∧ f.drop u = List.replicate ((4 - u % 4) % 4) 0xFF

/-- The length law (the spec's inference in 30_encoding.md section 2 and 41_frame_codec.md, Encode): the padded length is a
multiple of 4, and at most 3 filler bytes follow the end marker. -/
def Obligations.RequestLengthIsAlignedWithAtMostThreeFillers : Prop :=
  ∀ (op : Byte) (ps : List (List Byte)) (f : List Byte), encodeFrame op ps = .ok f →
    let u := 4 + ps.length + (ps.map List.length).sum
    f.length % 4 = 0 ∧ u ≤ f.length ∧ f.length ≤ u + 3 ∧ f.length ≤ 1796

/-- The round-trip law (the spec's inference in 41_frame_codec.md, Decode, from §8): the unpadded request with its reply
bit set, decoded in List mode with room enough, gives the parameters back, and in Single mode the only one. ERR_CMD is
not the echo (00_scope.md R8). -/
def Obligations.DecodeOfEncodedFrameGivesTheParameters : Prop :=
  ∀ (op : Byte) (ps : List (List Byte)) (f filler rx : List Byte) (ab : List Level) (s : State),
    encodeFrame op ps = .ok f → Cfg.inRange s.cfg = true → s.cfg.errCmd ≠ replyOp op →
    s.marker = false → s.err = none → s.env.abort = .low :: ab →
    let u := 4 + ps.length + (ps.map List.length).sum
    filler.length = fillerCount s.cfg (s.rxCount + u) →
    s.env.rx = (f.take u).set 1 (f.getD 1 0 ||| 0x80) ++ filler ++ rx →
    (∀ (maxParams recCap : Nat), ps.length ≤ maxParams → (∀ p ∈ ps, p.length ≤ recCap) →
      let r := decodeList op maxParams recCap s
      r.2 = none ∧ r.1.slots.take r.1.m = ps ∧ r.1.m = ps.length ∧ r.1.truncated = false ∧ r.1.env.rx = rx)
    ∧ (∀ (cap : Nat) (p : List Byte), ps = [p] → p.length ≤ cap →
      let r := decodeSingle op cap none s
      r.2 = none ∧ r.1.slots.head? = some p ∧ r.1.m = 1 ∧ r.1.env.rx = rx)
    ∧ replyOp op &&& 0x7F = op &&& 0x7F

/-! ### The decoder's steps -/

/-- 41_frame_codec.md R137: the start marker is found at probe k for every k up to PROBE_LIMIT; after PROBE_LIMIT other
bytes FramingError is raised without reading another byte; ABORT is sampled before each byte and beats the limit. -/
def Obligations.MarkerHuntFindsFailsOrIsCancelled : Prop :=
  ∀ (s : State) (junk rx : List Byte) (ab : List Level), s.marker = false → (∀ b ∈ junk, b ≠ 0xE0) →
    (junk.length < s.cfg.probeLimit →
      s.env.abort = List.replicate (junk.length + 1) .low ++ ab → s.env.rx = junk ++ 0xE0 :: rx →
      findMarker s = ({ s with
        probe := junk.length + 1, m := 0, marker := true, rxCount := s.rxCount + (junk.length + 1),
        trace := s.trace ++ huntEvents (junk ++ [0xE0]), env := { s.env with abort := ab, rx := rx } }, none))
    ∧ (junk.length = s.cfg.probeLimit →
      s.env.abort = List.replicate (junk.length + 1) .low ++ ab → s.env.rx = junk ++ rx →
      findMarker s = ({ s with
        probe := junk.length, m := 0, rxCount := s.rxCount + junk.length,
        trace := s.trace ++ huntEvents junk ++ [.abt .low], env := { s.env with abort := ab, rx := rx } },
        some .framingError))
    ∧ (junk.length ≤ s.cfg.probeLimit →
      s.env.abort = List.replicate junk.length .low ++ .high :: ab → s.env.rx = junk ++ rx →
      findMarker s = ({ s with
        probe := junk.length, m := 0, rxCount := s.rxCount + junk.length,
        trace := s.trace ++ huntEvents junk ++ [.abt .high], env := { s.env with abort := ab, rx := rx } },
        some .cancelled))

/-- 41_frame_codec.md R138: the error sentinel is tested before the echo, for every command, also where it is the echo's
own byte; its two bytes are read whatever they are, and receive padding follows. -/
def Obligations.ErrorSentinelBeatsTheEcho : Prop :=
  ∀ (op x y : Byte) (filler rx : List Byte) (s : State),
    filler.length = fillerCount s.cfg (s.rxCount + 3) →
    s.env.rx = s.cfg.errCmd :: x :: y :: (filler ++ rx) →
    echoCheck op s = ({ s with
      marker := false, rxCount := s.rxCount + 3 + filler.length,
      trace := s.trace ++ receivedEvents (s.cfg.errCmd :: x :: y :: filler), env := { s.env with rx := rx } },
      some .deviceErrorReply)

/-- 41_frame_codec.md R139: a byte that is not the sentinel passes only as the request's opcode with the reply bit set;
one byte is read, whatever it is. -/
def Obligations.EchoMustBeTheRequestWithReplyBit : Prop :=
  ∀ (op e : Byte) (rx : List Byte) (s : State), e ≠ s.cfg.errCmd → s.env.rx = e :: rx →
    echoCheck op s = ({ s with
      marker := false, rxCount := s.rxCount + 1, trace := s.trace ++ receivedEvents [e],
      env := { s.env with rx := rx } },
      if e = (op &&& 0x7F) ||| 0x80 then none else some .unexpectedCommandEcho)

/-- 41_frame_codec.md R140: in Single mode every count but 1 is ParamCountMismatch, and no more bytes are read; the count
1 goes on to the value. -/
def Obligations.SingleCountOtherThanOneStops : Prop :=
  ∀ (c : Byte) (cap : Nat) (exact : Option Nat) (rx : List Byte) (s : State), s.env.rx = c :: rx →
    let t : State := { s with
      n := c, rxCount := s.rxCount + 1, trace := s.trace ++ receivedEvents [c], env := { s.env with rx := rx } }
    singleBody cap exact s = if c = 1 then finishFrame (readValue cap exact t) else (t, some .paramCountMismatch)

/-- 41_frame_codec.md R142, R143: a single value is read whole whatever its length; too long is BufferTooSmall, shorter
than its exact width ShortValue, both reported before the terminator is judged and both storing nothing; else a wrong
terminator is MissingTerminator, and the value is stored. -/
def Obligations.SingleValueIsReadWholeThenJudged : Prop :=
  ∀ (len term : Byte) (cap : Nat) (exact : Option Nat) (payload filler rx : List Byte) (s : State),
    s.err = none → payload.length = len.toNat →
    filler.length = fillerCount s.cfg (s.rxCount + (3 + payload.length)) →
    s.env.rx = 1 :: len :: (payload ++ term :: (filler ++ rx)) →
    let shape : Option ErrorKind :=
      if cap < payload.length then some .bufferTooSmall
      else if payload.length < exact.getD 0 then some .shortValue
      else none
    let t : State := { s with
      n := 1, rxCount := s.rxCount + (3 + payload.length) + filler.length,
      trace := s.trace ++ receivedEvents (1 :: len :: (payload ++ term :: filler)), env := { s.env with rx := rx } }
    singleBody cap exact s =
      match shape with
      | some e => ({ t with err := some e }, some e)
      | none =>
        ({ t with slots := payload :: s.slots.drop 1, m := 1 },
          if term = 0xEE then none else some .missingTerminator)

/-- 42_demux.md R162, R163: the reported count is kept whole, clamped to the capacity without an error of its own, and
the truncation flag says whether it was clamped. -/
def Obligations.ListCountIsClampedWithoutError : Prop :=
  ∀ (maxParams recCap : Nat) (s : State),
    let c := s.rxByte.1
    let r := listBody maxParams recCap s
    r.1.n = c ∧ r.1.m = min c.toNat maxParams ∧ r.1.truncated = decide (r.1.n.toNat > r.1.m)
    ∧ (s.err = none → r.2 = none ∨ r.2 = some .bufferTooSmall ∨ r.2 = some .missingTerminator)

/-- 42_demux.md R164: a list body of any records is read to its terminator. The records within the clamp are stored up to
the first that is longer than the capacity; if there is one, that is BufferTooSmall whatever the terminator, and neither
it nor a later record is stored. The records beyond the clamp are drained unchecked. -/
def Obligations.ListRecordsAreStoredWithinTheClamp : Prop :=
  ∀ (maxParams recCap : Nat) (records : List (List Byte)) (term : Byte) (filler rx : List Byte) (s : State),
    s.err = none → records.length ≤ 255 → (∀ p ∈ records, p.length ≤ 255) →
    let wire := BitVec.ofNat 8 records.length :: (records.flatMap paramField ++ [term])
    filler.length = fillerCount s.cfg (s.rxCount + wire.length) →
    s.env.rx = wire ++ filler ++ rx →
    let m := min records.length maxParams
    let kept := (records.take m).takeWhile (fun p => decide (p.length ≤ recCap))
    let r := listBody maxParams recCap s
    r.1.trace = s.trace ++ receivedEvents (wire ++ filler) ∧ r.1.env.rx = rx ∧ r.1.m = m
    ∧ r.1.slots = kept ++ s.slots.drop kept.length
    ∧ r.2 = if kept.length < m then some .bufferTooSmall else if term = 0xEE then none else some .missingTerminator

/-- The clamping law (the spec's inference in 42_demux.md from §8): where a decode with room for all N reported records
succeeds, the decode with capacity c < N succeeds on the same bytes with the first c of them and the truncation flag. -/
def Obligations.SmallerCapacityReturnsThePrefix : Prop :=
  ∀ (op : Byte) (recCap c : Nat) (s : State) (big small : State) (e : Option ErrorKind),
    decodeList op big.n.toNat recCap s = (big, none) → c < big.n.toNat →
    decodeList op c recCap s = (small, e) →
    e = none ∧ small.m = c ∧ small.truncated = true ∧ small.slots.take c = big.slots.take c
    ∧ small.trace = big.trace ∧ small.env = big.env

/-- 42_demux.md R169: a list decode writes no slot beyond the clamped count, which never exceeds the capacity, and no
slot with more than the record capacity. -/
def Obligations.ListDecodeStaysWithinItsSlots : Prop :=
  ∀ (op : Byte) (maxParams recCap : Nat) (s : State), s.marker = false →
    let t := (decodeList op maxParams recCap s).1
    t.m ≤ maxParams
    ∧ (∀ i, t.m ≤ i → t.slots[i]? = s.slots[i]?)
    ∧ (∀ (i : Nat) (p : List Byte), t.slots[i]? = some p → s.slots[i]? = some p ∨ p.length ≤ recCap)

/-- 41_frame_codec.md R148, its PadRx(): without RX_PAD nothing is read; with it, filler is read until the exchanges of
the receive phase are a multiple of 4, at most three bytes. -/
def Obligations.ReceivePaddingAlignsThePhase : Prop :=
  ∀ s : State,
    (s.cfg.rxPad = false → padRx s = s)
    ∧ (s.cfg.rxPad = true → ∃ bytes : List Byte, bytes.length < 4
        ∧ (padRx s).rxCount = s.rxCount + bytes.length ∧ (padRx s).rxCount % 4 = 0
        ∧ (padRx s).trace = s.trace ++ receivedEvents bytes)

/-! ### The handshake -/

/-- 40_handshake.md R111: reset_sequence, its trace and all it writes. It acquires nothing and cannot fail. -/
def Obligations.ResetSequenceDrivesItsSevenSteps : Prop :=
  ∀ s : State, resetSequence s = { s with
    rs := 7, bootMode := .inPull, cs := .high, resetLevel := .high,
    trace := s.trace ++ [.init .boot .out, .set .boot, .set .cs, .init .reset .out, .clr .reset,
      .dly s.cfg.tResetLowUs, .set .reset, .dly s.cfg.tBootUs, .init .boot (.inPull s.cfg.bootReleaseMode)] }

/-- 40_handshake.md R112's bounds and R116, R117: the delays of a configuration in range, what select and deselect do, that
in a sound state each is called on the level it undoes, with the bus held, and that along a call of a wire operation, from
its request or from any state inside it, they alternate. That chip-select is still low on entry to DeselectTx and
DeselectRx is the model's reading (log 15). -/
def Obligations.SelectAndDeselectAlternate : Prop :=
  (∀ c : Cfg, Cfg.inRange c = true → 10000 ≤ c.tResetLowUs ∧ 750000 ≤ c.tBootUs ∧ 1 ≤ c.tSettleUs)
  ∧ (∀ s : State, select s = { s with cs := .low, trace := s.trace ++ [.clr .cs] })
  ∧ (∀ s : State, deselect s = { s with cs := .high, trace := s.trace ++ [.set .cs, .dly s.cfg.tSettleUs] })
  ∧ (∀ s : State, Sound s → (s.fsm = .selectTx ∨ s.fsm = .selectRx) → s.busHeld = true ∧ s.cs = .high)
  ∧ (∀ s : State, Sound s → (s.fsm = .deselectTx ∨ s.fsm = .deselectRx) → s.busHeld = true ∧ s.cs = .low)
  ∧ (∀ (s : State) (l : List Event), Sound s → s.fsm ≠ .resetSeq → (resume s).trace = s.trace ++ l →
    selectionsAlternate s.cs l = true)
  ∧ (∀ (b : Byte) (a : OpArgs) (t : Option Bound) (s : State) (l : List Event), Sound s → s.fsm = .idle →
    (call ⟨.cmd b, a, t⟩ s).trace = s.trace ++ l → selectionsAlternate .high l = true)

/-- 40_handshake.md R114: a ready wait returns at the poll that reads READY low, times out at the poll where the timer has
expired and READY still reads 1, and is cancelled at the poll that reads ABORT 1; its trace, poll by poll. -/
def Obligations.ReadyWaitReturnsTimesOutOrIsCancelled : Prop :=
  ∀ (s : State) (j p : Nat) (ab rdy : List Level) (ps : List Nat), s.env.polls = p :: ps →
    let env : Env := { s.env with abort := ab, ready := rdy, timers := s.env.timers + 1 }
    (j ≤ p → s.env.abort = List.replicate (j + 1) Level.low ++ ab →
      s.env.ready = List.replicate j Level.high ++ Level.low :: rdy →
      ∃ timer, waitReady s = ({ s with
        timer := timer, env := { env with polls := if j = 0 then p :: ps else ps },
        trace := s.trace ++ waitEvents j [.abt .low, .read .ready .low] }, none))
    ∧ (s.env.abort = List.replicate (p + 1) Level.low ++ ab → s.env.ready = List.replicate (p + 1) Level.high ++ rdy →
      ∃ timer, waitReady s = ({ s with
        timer := timer, env := { env with polls := ps },
        trace := s.trace ++ waitEvents p [.abt .low, .read .ready .high, .texp true] },
        some .handshakeTimeout))
    ∧ (j ≤ p → s.env.abort = List.replicate j Level.low ++ Level.high :: ab → s.env.ready = List.replicate j Level.high ++ rdy →
      ∃ timer, waitReady s = ({ s with
        timer := timer, env := { env with polls := if j = 0 then p :: ps else ps },
        trace := s.trace ++ waitEvents j [.abt .high] }, some .cancelled))

/-- 40_handshake.md R115, its first sentence, for every environment: a ready wait moves no byte, leaves chip-select and
the bus as they are, and raises only HandshakeTimeout or Cancelled. -/
def Obligations.ReadyWaitMovesNoByte : Prop :=
  ∀ s : State,
    (waitReady s).1.cs = s.cs ∧ (waitReady s).1.busHeld = s.busHeld
    ∧ (∃ l, (waitReady s).1.trace = s.trace ++ l ∧ countEvents isExchange l = 0)
    ∧ ((waitReady s).2 = none ∨ (waitReady s).2 = some .handshakeTimeout ∨ (waitReady s).2 = some .cancelled)

/-! ### The machine -/

/-- A step runs the decoded instruction: in Idle the oldest request's, after a start marker the echo byte's, at a
suspension point the ABORT that reads 1; where there is none of these the engine goes on by itself. What a step takes in
is the model's choice (log 1, log 2). -/
def Obligations.StepRunsTheDecodedInstruction : Prop :=
  ∀ s : State, Cfg.inRange s.cfg = true →
    (∀ (r : Request) (rest : List Request) (i : Instr), s.fsm = .idle → s.requests = r :: rest →
      decodeRequest r = .ok i → step s = exec i { s with requests := rest })
    ∧ (∀ (b : Byte) (rest : List Byte) (i : Instr), s.atEcho = true → s.env.rx = b :: rest →
      decodeEcho s.cfg.errCmd b = .ok i → step s = exec i { s with env := { s.env with rx := rest } })
    ∧ (∀ rest : List Level, s.suspended = true → s.env.abort = .high :: rest →
      step s = exec .abort { s with env := { s.env with abort := rest } })
    ∧ (fetch s = none → step s = .next (resume s))

/-- Inside a call a step is the engine's own continuation, whether its next input is an instruction of the table or not:
the echo rows and ABORT do what the engine does with that input (the model's reading, log 12, log 14). -/
def Obligations.StepInsideACallContinuesIt : Prop :=
  ∀ (s : State) (b : Byte), Cfg.inRange s.cfg = true → s.fsm ≠ .idle → s.op = .cmd b →
    step s = .next (resume s)

/-- A step of a configuration in range always answers a next state; out of range it is refused, and so is the
construction (93_implementation_defined.md U14; log 6). -/
def Obligations.OnlyABadConfigurationIsRefused : Prop :=
  (∀ s : State, Cfg.inRange s.cfg = true → ∃ t, step s = .next t)
  ∧ (∀ s : State, Cfg.inRange s.cfg = false → step s = .refused .configOutOfRange)
  ∧ (∀ c : Cfg, construct c = if Cfg.inRange c then .next (State.blockReset c) else .refused .configOutOfRange)

/-- 70_reset_and_hazards.md R250 with the rows of 10_state.md R44 that give a value: what block reset leaves, for every
configuration. -/
def Obligations.BlockResetLeavesTheGivenValues : Prop :=
  ∀ c : Cfg,
    let s := State.blockReset c
    s.cfg = c ∧ s.fsm = .idle ∧ s.busHeld = false ∧ s.cs = .high ∧ s.resetLevel = .undriven ∧ s.bootMode = .undriven
    ∧ s.err = none ∧ s.truncated = false ∧ s.trace = [.init .cs .out, .set .cs, .init .ready .input]

/-- The state right after reset is sound, for every configuration in range. The registers that 10_state.md R44 leaves
unspecified hold the model's values there (log 5), and `State.reset` the model's configuration (log 4). -/
def Obligations.ResetStateIsSound : Prop :=
  Sound State.reset ∧ ∀ c : Cfg, Cfg.inRange c = true → Sound (State.blockReset c)

/-- Every step keeps a sound state sound (10_state.md R26, R27, R28, R32, R33, R34, R41); and so does each part of a step,
the accept of any request and the rule of each engine state, so that the states inside a call are sound too. The level of
chip-select on entry to DeselectTx and DeselectRx is the model's reading (log 15). -/
def Obligations.EveryStepKeepsSoundness : Prop :=
  (∀ s t : State, Sound s → step s = .next t → Sound t)
  ∧ (∀ (r : Request) (s : State), Sound s → s.fsm = .idle → Sound (accept r s))
  ∧ (∀ s : State, Sound s → s.fsm ≠ .idle → Sound (action s))

/-- Every instruction, ill-formed operands included, keeps a sound state sound. -/
def Obligations.EveryInstructionKeepsSoundness : Prop :=
  ∀ (i : Instr) (s t : State), Sound s → exec i s = .next t → Sound t

/-- 70_reset_and_hazards.md R261: no operation changes the configuration. -/
def Obligations.NoOperationChangesTheConfiguration : Prop :=
  (∀ s t : State, step s = .next t → t.cfg = s.cfg) ∧ (∀ (i : Instr) (s t : State), exec i s = .next t → t.cfg = s.cfg)

/-- What has happened stays: a step only adds to the trace. -/
def Obligations.StepOnlyAddsToTheTrace : Prop :=
  ∀ s t : State, step s = .next t → ∃ l, t.trace = s.trace ++ l

/-- Every run of the engine ends in Idle, or began in AcquireBus and holds there for another holder's release with nothing
in the trace, for every environment (the spec's inference in 60_exceptions.md section 12); a call is such a run from its
accept. -/
def Obligations.EveryCallEndsOrHoldsForTheBus : Prop :=
  (∀ s : State, (resume s).fsm = .idle ∨
    ((resume s).fsm = .acquireBus ∧ s.fsm = .acquireBus ∧ s.takeBus.1 = true ∧ (resume s).trace = s.trace))
  ∧ (∀ (r : Request) (s : State), s.fsm = .idle → (call r s).fsm = .idle ∨
    ((call r s).fsm = .acquireBus ∧ (accept r s).fsm = .acquireBus ∧ (accept r s).takeBus.1 = true
      ∧ (call r s).trace = s.trace ++ [.req r]))

/-- 43_command_engine.md R181: the ways a call takes through the engine's states, with their error exits, and no other,
from its request in Idle and, where it has held in AcquireBus, from there; the OBS record shows them (log 10). -/
def Obligations.EveryCallTakesAWayOfTheStateTable : Prop :=
  (∀ (r : Request) (s : State), s.fsm = .idle →
    ∃ way, (call r s).obs = s.obs ++ pathObs way
      ∧ (way = [(.idle, none), (.failed, some .argumentOutOfRange), (.idle, some .argumentOutOfRange)]
        ∨ way = [(.idle, none), (.resetSeq, none), (.idle, none)] ∨ isWireWay way))
  ∧ (∀ s : State, s.fsm = .acquireBus → s.err = none → acceptedCall s →
    ∃ way, (resume s).obs = s.obs ++ pathObs way.tail ∧ isWireWay way)

/-- The release invariant (the spec's inference in 43_command_engine.md section 1, from §8), for every request and every
environment: a call that takes the bus releases it exactly once, after taking it and before its one result; a call that
does not, neither takes nor releases it; the bus is free and chip-select inactive at its end and while it holds. A call
that has held in AcquireBus goes on in the same way from there. -/
def Obligations.BusIsReleasedExactlyOnceOnEveryPath : Prop :=
  (∀ (r : Request) (s : State), s.fsm = .idle → s.busHeld = false → s.cs = .high →
    (call r s).busHeld = false ∧ (call r s).cs = .high
    ∧ (((call r s).fsm = .acquireBus ∧ (call r s).trace = s.trace ++ [.req r])
      ∨ ((call r s).fsm = .idle ∧ ∃ (mid : List Event) (v : Result),
          countEvents isAcq mid = 0 ∧ countEvents isRel mid = 0 ∧ countEvents isResp mid = 0
          ∧ ((call r s).trace = s.trace ++ [[Event.req r], mid, [Event.resp v]].flatten ∧ countEvents isExchange mid = 0
            ∨ (call r s).trace
              = s.trace ++ [[Event.req r, Event.acq], mid, [Event.rel, Event.resp v]].flatten))))
  ∧ (∀ s : State, s.fsm = .acquireBus → s.busHeld = false → s.cs = .high →
    (resume s).busHeld = false ∧ (resume s).cs = .high
    ∧ (((resume s).fsm = .acquireBus ∧ (resume s).trace = s.trace)
      ∨ ((resume s).fsm = .idle ∧ ∃ (mid : List Event) (v : Result),
          countEvents isAcq mid = 0 ∧ countEvents isRel mid = 0 ∧ countEvents isResp mid = 0
          ∧ (resume s).trace = s.trace ++ [[Event.acq], mid, [Event.rel, Event.resp v]].flatten)))

/-- Every byte exchange of a call happens while chip-select is active (40_handshake.md R116, R117; 41_frame_codec.md R134),
for every environment, from its request in Idle and, where it has held in AcquireBus, from there. -/
def Obligations.EveryExchangeIsSelected : Prop :=
  (∀ (r : Request) (s : State) (l : List Event), s.fsm = .idle → s.cs = .high →
    (call r s).trace = s.trace ++ l → exchangesSelected .high l = true)
  ∧ (∀ (s : State) (l : List Event), s.fsm = .acquireBus → s.cs = .high →
    (resume s).trace = s.trace ++ l → exchangesSelected .high l = true)

/-- The state machine and the spec's whole-call procedure (43_command_engine.md section 2, the last rule) agree on every
request and every environment whose bus is free: same trace, registers, lines and result; only the OBS record differs. -/
def Obligations.StateMachineAgreesWithTheCallProcedure : Prop :=
  ∀ (r : Request) (s : State), s.fsm = .idle → s.takeBus.1 = false →
    { call r s with obs := s.obs } = callProcedure r s

/-- 10_state.md R31: the accepted operation and its arguments are latched and held to the end of the call, also by the
engine's run from any state inside it, a hold in AcquireBus included. -/
def Obligations.AcceptedArgumentsAreHeldThroughTheCall : Prop :=
  (∀ (r : Request) (s : State), s.fsm = .idle →
    (call r s).op = r.sel ∧ (call r s).args = latchArgs s.cfg r
    ∧ (r.timeout = none → (call r s).args.timeout = .micros s.cfg.defaultReadyTimeout))
  ∧ (∀ s : State, (resume s).op = s.op ∧ (resume s).args = s.args)

/-- The registers that 10_state.md R44 leaves open are not observable: whatever values they (and the model's receive
count, log 13) hold in Idle, a call makes the same events, delivers the same result and leaves the same state, but for
those of them that the call's own way did not write, which are as they were before it. So no run depends on the values of
log 5. Where the call has held in AcquireBus, the same of the registers it has not written by then. -/
def Obligations.OpenRegistersAreNeverObservable : Prop :=
  (∀ (r : Request) (s : State) (op : Selector) (args : Args) (tx : List Byte) (txIdx probe : Nat) (n : Byte) (m : Nat)
    (timer : Nat) (rs : Fin 8) (slots : List (List Byte)) (rxCount : Nat), s.fsm = .idle →
    let t : State := { s with
      op := op, args := args, tx := tx, txIdx := txIdx, probe := probe, n := n, m := m, timer := timer, rs := rs,
      slots := slots, rxCount := rxCount }
    SameButUnwritten s t (call r s) (call r t))
  ∧ (∀ (s : State) (tx : List Byte) (txIdx probe : Nat) (n : Byte) (timer : Nat) (rs : Fin 8) (rxCount : Nat),
    s.fsm = .acquireBus →
    let t : State := { s with
      tx := tx, txIdx := txIdx, probe := probe, n := n, timer := timer, rs := rs, rxCount := rxCount }
    SameButUnwritten s t (resume s) (resume t))

/-! ### Accept, holds and refusals of a call -/

/-- 43_command_engine.md R182: an accepted wire request goes to AcquireBus if its selector is one of the seven and
its arguments pass; otherwise the call fails with ArgumentOutOfRange, and nothing but the request and the result is
in the trace. The OBS record and the slots are kept by the model's choice (log 10, log 16). -/
def Obligations.BadSelectorOrArgumentsFailBeforeTheBus : Prop :=
  ∀ (b : Byte) (a : OpArgs) (t : Option Bound) (s : State), s.fsm = .idle →
    let r : Request := ⟨.cmd b, a, t⟩
    ((b ∈ [0x37, 0x20, 0x22, 0x36, 0x27, 0x11, 0x30] ∧ argsOk s.cfg b r = true) →
      (accept r s).fsm = .acquireBus ∧ (accept r s).err = none ∧ (accept r s).trace = s.trace ++ [.req r])
    ∧ (¬(b ∈ [0x37, 0x20, 0x22, 0x36, 0x27, 0x11, 0x30] ∧ argsOk s.cfg b r = true) →
      call r s = { s with
        op := .cmd b, args := latchArgs s.cfg r, err := some .argumentOutOfRange, truncated := false, m := 0,
        slots := List.replicate (slotCount s.cfg (.cmd b) (latchArgs s.cfg r)) [],
        trace := s.trace ++ [.req r, .resp (.err .argumentOutOfRange)],
        obs := s.obs ++ pathObs [(.idle, none), (.failed, some .argumentOutOfRange),
          (.idle, some .argumentOutOfRange)] })

/-- 43_command_engine.md R183: which arguments pass, operation by operation, in a configuration in range. -/
def Obligations.ArgumentCheckIsTheLimitsOfEachOperation : Prop :=
  ∀ (c : Cfg) (us : Nat), Cfg.inRange c = true →
    (∀ ssid pass, argsOk c 0x11 ⟨.cmd 0x11, .credentials ssid pass, some (.micros us)⟩
      = decide (ssid.length ≤ c.ssidMax ∧ pass.length ≤ c.passMax))
    ∧ (∀ n, argsOk c 0x37 ⟨.cmd 0x37, .cap n, some (.micros us)⟩ = decide (n ≤ 255))
    ∧ (∀ n, argsOk c 0x27 ⟨.cmd 0x27, .maxRecords n, some (.micros us)⟩ = decide (n ≤ 255))
    ∧ (∀ b a, b ∈ [(0x20 : Byte), 0x22, 0x36, 0x30] →
      argsOk c b ⟨.cmd b, a, some (.micros us)⟩ = decide (a = .none))
    ∧ (∀ b a, argsOk c b ⟨.cmd b, a, some .unbounded⟩ = false)
    ∧ (∀ b a, argsOk c b ⟨.cmd b, a, none⟩
      = argsOk c b ⟨.cmd b, a, some (.micros c.defaultReadyTimeout)⟩)
    ∧ (∀ n t, decodeMode c 0x27 (latchArgs c ⟨.cmd 0x27, .maxRecords n, t⟩) = .list (min n c.listCap) c.ssidMax)

/-- A step on a request that decodes to no instruction fails that call with ArgumentOutOfRange (30_encoding.md R92), with
no bus activity. -/
def Obligations.UnlistedRequestIsAnsweredOutOfRange : Prop :=
  ∀ (s : State) (r : Request) (rest : List Request) (e : Reject), Cfg.inRange s.cfg = true → s.fsm = .idle →
    s.requests = r :: rest → decodeRequest r = .error e →
    ∃ t, step s = .next t ∧ t.fsm = .idle ∧ t.err = some .argumentOutOfRange ∧ t.requests = rest
      ∧ t.trace = s.trace ++ [.req r, .resp (.err .argumentOutOfRange)]

/-- 43_command_engine.md R180, its second sentence: a request presented while the block is not Idle is not accepted and
waits; nothing else changes. That it waits in the order presented is the model's choice (log 9). -/
def Obligations.RequestOutsideIdleWaits : Prop :=
  ∀ (s : State) (n : Nat) (ssid pass : List Byte) (t : Option Bound), s.fsm ≠ .idle →
    let waits := fun (r : Request) => (Host.Outcome.next { s with requests := s.requests ++ [r] } :
      Host.Outcome State Fault Refusal)
    exec (.getfwversion n t) s = waits ⟨.cmd 0x37, .cap n, t⟩
    ∧ exec (.getconnstatus t) s = waits ⟨.cmd 0x20, .none, t⟩
    ∧ exec (.getmacaddr t) s = waits ⟨.cmd 0x22, .none, t⟩
    ∧ exec (.startscan t) s = waits ⟨.cmd 0x36, .none, t⟩
    ∧ exec (.scannetworks n t) s = waits ⟨.cmd 0x27, .maxRecords n, t⟩
    ∧ exec (.connect ssid pass t) s = waits ⟨.cmd 0x11, .credentials ssid pass, t⟩
    ∧ exec (.disconnect t) s = waits ⟨.cmd 0x30, .none, t⟩
    ∧ exec .resetseq s = waits ⟨.resetSeq, .none, none⟩

/-- 20_memory.md R70, the wait of Acquire: while another holder has the bus the block stays in AcquireBus, with nothing in
the trace and the bus not held; a step tries again (log 8). -/
def Obligations.AcquireHoldsWhileAnotherHasTheBus : Prop :=
  ∀ (s : State) (l : List Bool), Cfg.inRange s.cfg = true → s.fsm = .acquireBus → s.env.bus = true :: l →
    step s = .next { s with env := { s.env with bus := l } }

/-! ### Errors -/

/-- 60_exceptions.md R228: the exit path of an error by the state that raised it, with the lines as they are at the
raise in a sound state; each ends with the error delivered and the block Idle. The error reported is the one latched
first. The OBS record and the slots are kept by the model's choice (log 10, log 16). -/
def Obligations.ErrorExitPathByTheStateThatRaised : Prop :=
  (∀ (s t : State) (e : ErrorKind), Sound s → (s.fsm = .awaitReadyTx ∨ s.fsm = .awaitReadyRx) →
    waitReady s = (t, some e) →
    s.cs = .high ∧ s.busHeld = true ∧ resume s = afterWaitError t e)
  ∧ (∀ (s t : State) (e : ErrorKind), Sound s → s.fsm = .receiveFrame → decodeCall s = (t, some e) →
    s.cs = .low ∧ s.busHeld = true
    ∧ resume s = afterReceiveError t (t.err.getD e)
    ∧ (t.err = none ∨ t.err = some e))

/-- 60_exceptions.md R226: the first error of a call is kept, whatever is latched or raised after it; a raise leaves the
primitive; the terminator check reports a latched error, whatever the terminator is. -/
def Obligations.FirstErrorIsKept : Prop :=
  ∀ (s : State) (d e : ErrorKind), ((s.latch d).latch e) = s.latch d ∧ (s.takeError d).err = some (s.err.getD d)
    ∧ ((s.latch d).takeError e).err = (s.latch d).err
    ∧ (s.err = none → (s.latch e).err = some e)
    ∧ (∀ f : State → Ended, Ended.andThen (s, some e) f = (s, some e))
    ∧ (s.err = some d → (finishFrame s).2 = some d ∧ (finishFrame s).1.err = some d)

/-- 60_exceptions.md R229: Failed delivers the error once and returns to Idle; the next accept clears it. The OBS
record and the slots are kept by the model's choice (log 10, log 16). -/
def Obligations.FailedDeliversTheErrorAndTheNextAcceptClearsIt : Prop :=
  (∀ (s : State) (e : ErrorKind), s.fsm = .failed → s.err = some e →
    resume s = { s with fsm := .idle, trace := s.trace ++ [.resp (.err e)], obs := s.obs ++ [⟨.failed, .idle, some e⟩] })
  ∧ (∀ (b : Byte) (a : OpArgs) (t : Option Bound) (s : State), s.fsm = .idle →
    (accept ⟨.resetSeq, a, t⟩ s).err = none
    ∧ (known b = true → argsOk s.cfg b ⟨.cmd b, a, t⟩ = true → (accept ⟨.cmd b, a, t⟩ s).err = none))

/-! ### What each instruction does, where it completes -/

/-- GETCONNSTATUS, STARTSCAN and DISCONNECT (43_command_engine.md R201, R203, R206) on a device that answers at
once: the call ends with the raw status byte; the whole final state, which says all that is written and that nothing
else is. The OBS record and the slots are kept by the model's choice (log 10, log 16). -/
def Obligations.StatusOperationsReturnTheStatusByte : Prop :=
  ∀ (s : State) (x : Exchange) (rest : Env) (t : Option Bound) (op v : Byte) (i : Instr),
    (i = .getconnstatus t ∧ op = 0x20 ∨ i = .startscan t ∧ op = 0x36 ∨ i = .disconnect t ∧ op = 0x30) →
    Cfg.inRange s.cfg = true → boundFinite t = true → s.cfg.errCmd ≠ replyOp op →
    x.request = ⟨.cmd op, .none, t⟩ → x.frame = [0xE0, op, 0x00, 0xEE] → x.reply = singleReply op [v] →
    Offered s x rest →
    ∃ timer, exec i s = .next (afterSuccess s x ⟨1, 1, [[v]], false, .status v⟩ timer rest)

/-- GETFWVERSION (43_command_engine.md R200): the version string of any length up to cap. The OBS record and the
slots are kept by the model's choice (log 10, log 16). -/
def Obligations.VersionOperationReturnsTheVersion : Prop :=
  ∀ (s : State) (x : Exchange) (rest : Env) (t : Option Bound) (cap : Nat) (version : List Byte),
    Cfg.inRange s.cfg = true → boundFinite t = true → s.cfg.errCmd ≠ 0xB7 → cap ≤ 255 → version.length ≤ cap →
    x.request = ⟨.cmd 0x37, .cap cap, t⟩ → x.frame = [0xE0, 0x37, 0x00, 0xEE] →
    x.reply = singleReply 0x37 version → Offered s x rest →
    ∃ timer, exec (.getfwversion cap t) s = .next (afterSuccess s x ⟨1, 1, [version], false, .bytes version⟩ timer rest)

/-- GETMACADDR (43_command_engine.md R202): exactly MAC_LEN bytes, in wire order. The OBS record and the slots are
kept by the model's choice (log 10, log 16). -/
def Obligations.MacOperationReturnsTheAddress : Prop :=
  ∀ (s : State) (x : Exchange) (rest : Env) (t : Option Bound) (mac : List Byte),
    Cfg.inRange s.cfg = true → boundFinite t = true → s.cfg.errCmd ≠ 0xA2 → mac.length = s.cfg.macLen →
    x.request = ⟨.cmd 0x22, .none, t⟩ → x.frame = [0xE0, 0x22, 0x00, 0xEE] →
    x.reply = singleReply 0x22 mac → Offered s x rest →
    ∃ timer, exec (.getmacaddr t) s = .next (afterSuccess s x ⟨1, 1, [mac], false, .bytes mac⟩ timer rest)

/-- SCANNETWORKS (43_command_engine.md R204): the first min(n, max_records, LIST_CAP) records, the count and the
truncation flag, for any number of reported records. The OBS record and the slots are kept by the model's choice
(log 10, log 16). -/
def Obligations.ScanOperationReturnsTheClampedRecords : Prop :=
  ∀ (s : State) (x : Exchange) (rest : Env) (t : Option Bound) (maxRecords : Nat) (records : List (List Byte)),
    Cfg.inRange s.cfg = true → boundFinite t = true → s.cfg.errCmd ≠ 0xA7 → maxRecords ≤ 255 →
    records.length ≤ 255 → (∀ p ∈ records, p.length ≤ 255) →
    let cap := min maxRecords s.cfg.listCap
    let m := min records.length cap
    (∀ p ∈ records.take m, p.length ≤ s.cfg.ssidMax) →
    x.request = ⟨.cmd 0x27, .maxRecords maxRecords, t⟩ → x.frame = [0xE0, 0x27, 0x00, 0xEE] →
    x.reply = listReply 0x27 records → Offered s x rest →
    ∃ timer, exec (.scannetworks maxRecords t) s = .next (afterSuccess s x
      ⟨BitVec.ofNat 8 records.length, m, records.take m ++ List.replicate (cap - m) [], decide (m < records.length),
        .scan (records.take m) m (decide (m < records.length))⟩ timer rest)

/-- CONNECT (43_command_engine.md R205): the two-parameter request, padded, and the raw status byte. The OBS record
and the slots are kept by the model's choice (log 10, log 16). -/
def Obligations.ConnectOperationSendsTheCredentials : Prop :=
  ∀ (s : State) (x : Exchange) (rest : Env) (t : Option Bound) (ssid pass : List Byte) (v : Byte),
    Cfg.inRange s.cfg = true → boundFinite t = true → s.cfg.errCmd ≠ 0x91 →
    ssid.length ≤ s.cfg.ssidMax → pass.length ≤ s.cfg.passMax →
    x.request = ⟨.cmd 0x11, .credentials ssid pass, t⟩ →
    x.frame = [0xE0, 0x11, 0x02] ++ BitVec.ofNat 8 ssid.length :: ssid ++ BitVec.ofNat 8 pass.length :: pass
      ++ 0xEE :: List.replicate ((4 - (6 + ssid.length + pass.length) % 4) % 4) 0xFF →
    x.reply = singleReply 0x11 [v] → Offered s x rest →
    ∃ timer, exec (.connect ssid pass t) s = .next (afterSuccess s x ⟨1, 1, [[v]], false, .status v⟩ timer rest)

/-- RESETSEQ (43_command_engine.md R207) in Idle: the whole final state, for every environment; the bus is not
touched. The OBS record and the slots are kept by the model's choice (log 10, log 16). -/
def Obligations.ResetSequenceOperationCompletes : Prop :=
  ∀ s : State, s.fsm = .idle → exec .resetseq s = .next { s with
    op := .resetSeq, args := ⟨[], [], 0, 0, .micros s.cfg.defaultReadyTimeout⟩, err := none, truncated := false,
    m := 0, slots := [], rs := 7, bootMode := .inPull, cs := .high, resetLevel := .high,
    trace := s.trace ++ [.req ⟨.resetSeq, .none, none⟩, .init .boot .out, .set .boot, .set .cs, .init .reset .out,
      .clr .reset, .dly s.cfg.tResetLowUs, .set .reset, .dly s.cfg.tBootUs,
      .init .boot (.inPull s.cfg.bootReleaseMode), .resp (.ok .unit)],
    obs := s.obs ++ pathObs [(.idle, none), (.resetSeq, none), (.idle, none)] }

/-- ABORT (43_command_engine.md R197, R208): at each suspension point the call ends Err(Cancelled) through that
state's error exit, with no byte moved. The OBS record and the slots are kept by the model's choice (log 10, log 16).
-/
def Obligations.AbortCancelsAtASuspensionPoint : Prop :=
  ∀ s : State, s.err = none →
    ((s.fsm = .awaitReadyTx ∨ s.fsm = .awaitReadyRx) →
      ∃ timer, exec .abort s = .next (afterWaitError { s with
        timer := timer, env := { s.env with timers := s.env.timers + 1 },
        trace := s.trace ++ [.tstart, .abt .high] } .cancelled))
    ∧ (∀ b, s.fsm = .receiveFrame → s.marker = false → s.op = .cmd b →
      exec .abort s = .next (afterReceiveError { s with
        probe := 0, m := 0, truncated := if b = 0x27 then false else s.truncated,
        trace := s.trace ++ [.abt .high] } .cancelled))

/-- The echo rows of the single-value operations (41_frame_codec.md R139, R142, R143): where the block reads the
echo of the call in flight and a value of fitting length with its terminator follows, the call ends with that value.
The OBS record and the slots are kept by the model's choice (log 10, log 16). -/
def Obligations.SingleEchoRowsFinishTheirCall : Prop :=
  ∀ (s : State) (payload filler rx : List Byte) (op : Byte) (i : Instr),
    (i = .getfwversionReply ∧ op = 0x37 ∨ i = .getconnstatusReply ∧ op = 0x20 ∨ i = .getmacaddrReply ∧ op = 0x22
      ∨ i = .startscanReply ∧ op = 0x36 ∨ i = .connectReply ∧ op = 0x11 ∨ i = .disconnectReply ∧ op = 0x30) →
    s.atEcho = true → s.err = none → s.op = .cmd op → s.cfg.errCmd ≠ replyOp op → payload.length ≤ 255 →
    (op = 0x37 → payload.length ≤ s.args.cap) → (op = 0x22 → payload.length = s.cfg.macLen) →
    (op ≠ 0x37 → op ≠ 0x22 → payload.length = 1) →
    filler.length = fillerCount s.cfg (s.rxCount + (4 + payload.length)) →
    s.env.rx = 1 :: BitVec.ofNat 8 payload.length :: (payload ++ 0xEE :: (filler ++ rx)) →
    exec i s = .next (afterReceive { s with
      n := 1, m := 1, slots := payload :: s.slots.drop 1, rxCount := s.rxCount + (4 + payload.length) + filler.length,
      trace := s.trace ++ receivedEvents (replyOp op :: 1 :: BitVec.ofNat 8 payload.length ::
        (payload ++ 0xEE :: filler)),
      env := { s.env with rx := rx } })

/-- SCANNETWORKS.reply (41_frame_codec.md R139, 42_demux.md R164, R165): the call ends with the clamped records. The
OBS record and the slots are kept by the model's choice (log 10, log 16). -/
def Obligations.ScanEchoRowFinishesItsCall : Prop :=
  ∀ (s : State) (records : List (List Byte)) (filler rx : List Byte),
    s.atEcho = true → s.err = none → s.op = .cmd 0x27 → s.cfg.errCmd ≠ 0xA7 →
    records.length ≤ 255 → (∀ p ∈ records, p.length ≤ 255) →
    let m := min records.length (min s.args.maxRecords s.cfg.listCap)
    (∀ p ∈ records.take m, p.length ≤ s.cfg.ssidMax) →
    let wire := BitVec.ofNat 8 records.length :: (records.flatMap paramField ++ [0xEE])
    filler.length = fillerCount s.cfg (s.rxCount + (1 + wire.length)) →
    s.env.rx = wire ++ filler ++ rx →
    exec .scannetworksReply s = .next (afterReceive { s with
      n := BitVec.ofNat 8 records.length, m := m, slots := records.take m ++ s.slots.drop m,
      truncated := decide (m < records.length), rxCount := s.rxCount + (1 + wire.length) + filler.length,
      trace := s.trace ++ receivedEvents (0xA7 :: (wire ++ filler)), env := { s.env with rx := rx } })

/-- ERR_CMD.reply (41_frame_codec.md R138): two bytes are consumed whatever they are, and the call in flight,
whichever it is, ends Err(DeviceErrorReply). The OBS record and the slots are kept by the model's choice (log 10,
log 16). -/
def Obligations.ErrorReplyEndsTheCallInFlight : Prop :=
  ∀ (s : State) (op x y : Byte) (filler rx : List Byte),
    s.atEcho = true → s.err = none → s.op = .cmd op →
    filler.length = fillerCount s.cfg (s.rxCount + 3) → s.env.rx = x :: y :: (filler ++ rx) →
    exec .errCmdReply s = .next (afterReceiveError { s with
      rxCount := s.rxCount + 3 + filler.length,
      trace := s.trace ++ receivedEvents (s.cfg.errCmd :: x :: y :: filler),
      env := { s.env with rx := rx } } .deviceErrorReply)

/-- 30_encoding.md R93: an echo row of another command than the one in flight ends the call
Err(UnexpectedCommandEcho), no further byte read; and so does a byte that no row lists, in a step. The OBS record
and the slots are kept by the model's choice (log 10, log 16). -/
def Obligations.OtherEchoEndsTheCallUnexpected : Prop :=
  ∀ (s : State) (op b : Byte), s.atEcho = true → s.err = none → s.op = .cmd op → b ≠ s.cfg.errCmd →
    b ≠ replyOp op →
    let ended := afterReceiveError { s with
      rxCount := s.rxCount + 1, trace := s.trace ++ receivedEvents [b] } .unexpectedCommandEcho
    (∀ i, decodeEcho s.cfg.errCmd b = .ok i → exec i s = .next ended)
    ∧ (∀ e rest, decodeEcho s.cfg.errCmd b = .error e → Cfg.inRange s.cfg = true → s.env.rx = b :: rest →
      step s = .next { ended with env := { s.env with rx := rest } })

/-- Inputs outside their places do nothing: an ABORT level of 1 outside the suspension points has no effect
(43_command_engine.md R197, its last sentence), and where the block is not about to read an echo neither have the reply
rows (the model's reading of 10_state.md R39, log 12). -/
def Obligations.InputsOutsideTheirPlacesDoNothing : Prop :=
  (∀ s : State, s.suspended = false → exec .abort s = .next s)
  ∧ (∀ (s : State) (i : Instr), s.atEcho = false →
    i ∈ [Instr.getfwversionReply, .getconnstatusReply, .getmacaddrReply, .startscanReply, .scannetworksReply,
      .connectReply, .disconnectReply, .errCmdReply] → exec i s = .next s)

/-! ### Codes and the transport -/

/-- 10_state.md R30 and 60_exceptions.md R220: the codes are the tables' own, and no two names share one. -/
def Obligations.StateAndErrorCodesAreTheTables : Prop :=
  [Fsm.idle, .acquireBus, .awaitReadyTx, .selectTx, .sendFrame, .deselectTx, .awaitReadyRx, .selectRx, .receiveFrame,
      .deselectRx, .releaseBus, .done, .failed, .resetSeq].map Fsm.code = List.range 14
  ∧ [ErrorKind.argumentOutOfRange, .handshakeTimeout, .framingError, .deviceErrorReply, .unexpectedCommandEcho,
      .paramCountMismatch, .missingTerminator, .bufferTooSmall, .shortValue, .cancelled].map (fun e => errCode (some e))
      = (List.range 10).map (· + 1)
  ∧ errCode none = 0
  ∧ (∀ f g : Fsm, f.code = g.code → f = g) ∧ (∀ d e : Option ErrorKind, errCode d = errCode e → d = e)

/-- Every transfer a call makes passes keep_selected = true on the configuration's bus and chip-select line
(41_frame_codec.md R134, 00_scope.md R11), a byte at a time (log 11); and the transport's acquires and releases, each with
the configuration's identifiers, are as many as the trace's. -/
def Obligations.EveryTransferKeepsSelected : Prop :=
  ∀ (s : State),
    (∀ call ∈ s.transportCalls, ∀ bus cs keep out answer, call = .transferByte bus cs keep out answer →
      bus = s.cfg.bus ∧ cs = s.cfg.cs ∧ keep = true ∧ .x out answer ∈ s.trace)
    ∧ (∀ o i, Event.x o i ∈ s.trace → .transferByte s.cfg.bus s.cfg.cs true o i ∈ s.transportCalls)
    ∧ (∀ bus cs mode clock, .acquire bus cs mode clock ∈ s.transportCalls →
      bus = s.cfg.bus ∧ cs = s.cfg.cs ∧ mode = s.cfg.mode ∧ clock = s.cfg.clock)
    ∧ (∀ bus, .release bus ∈ s.transportCalls → bus = s.cfg.bus)
    ∧ s.transportCalls.count (.acquire s.cfg.bus s.cfg.cs s.cfg.mode s.cfg.clock) = s.trace.count .acq
    ∧ s.transportCalls.count (.release s.cfg.bus) = s.trace.count .rel
end

