-- ==== Sys2Proof/Laws/State.lean ====
section
/-! SUPPORT. One lemma for each field of State and each basic update: an event, a state change, a tick of the free
values, a step of reset_sequence, a deposit in an answer queue. -/

namespace Sys2Proof.Machine

/-! ### `emit` -/

@[simp] theorem State.emit_cfg (s : State) (e : Event) : (s.emit e).cfg = s.cfg := rfl
@[simp] theorem State.emit_fsm (s : State) (e : Event) : (s.emit e).fsm = s.fsm := rfl
@[simp] theorem State.emit_op (s : State) (e : Event) : (s.emit e).op = s.op := rfl
@[simp] theorem State.emit_args (s : State) (e : Event) : (s.emit e).args = s.args := rfl
@[simp] theorem State.emit_busHeld (s : State) (e : Event) : (s.emit e).busHeld = s.busHeld := rfl
@[simp] theorem State.emit_cs (s : State) (e : Event) : (s.emit e).cs = s.cs := rfl
@[simp] theorem State.emit_resetLevel (s : State) (e : Event) : (s.emit e).resetLevel = s.resetLevel := rfl
@[simp] theorem State.emit_bootMode (s : State) (e : Event) : (s.emit e).bootMode = s.bootMode := rfl
@[simp] theorem State.emit_err (s : State) (e : Event) : (s.emit e).err = s.err := rfl
@[simp] theorem State.emit_truncated (s : State) (e : Event) : (s.emit e).truncated = s.truncated := rfl
@[simp] theorem State.emit_tx (s : State) (e : Event) : (s.emit e).tx = s.tx := rfl
@[simp] theorem State.emit_txIdx (s : State) (e : Event) : (s.emit e).txIdx = s.txIdx := rfl
@[simp] theorem State.emit_probe (s : State) (e : Event) : (s.emit e).probe = s.probe := rfl
@[simp] theorem State.emit_n (s : State) (e : Event) : (s.emit e).n = s.n := rfl
@[simp] theorem State.emit_m (s : State) (e : Event) : (s.emit e).m = s.m := rfl
@[simp] theorem State.emit_timer (s : State) (e : Event) : (s.emit e).timer = s.timer := rfl
@[simp] theorem State.emit_rs (s : State) (e : Event) : (s.emit e).rs = s.rs := rfl
@[simp] theorem State.emit_slots (s : State) (e : Event) : (s.emit e).slots = s.slots := rfl
@[simp] theorem State.emit_marker (s : State) (e : Event) : (s.emit e).marker = s.marker := rfl
@[simp] theorem State.emit_rxCount (s : State) (e : Event) : (s.emit e).rxCount = s.rxCount := rfl
@[simp] theorem State.emit_trace (s : State) (e : Event) : (s.emit e).trace = s.trace ++ [e] := rfl
@[simp] theorem State.emit_obs (s : State) (e : Event) : (s.emit e).obs = s.obs := rfl
@[simp] theorem State.emit_requests (s : State) (e : Event) : (s.emit e).requests = s.requests := rfl
@[simp] theorem State.emit_env (s : State) (e : Event) : (s.emit e).env = s.env := rfl

/-! ### `enter` -/

@[simp] theorem State.enter_cfg (s : State) (f : Fsm) : (s.enter f).cfg = s.cfg := rfl
@[simp] theorem State.enter_fsm (s : State) (f : Fsm) : (s.enter f).fsm = f := rfl
@[simp] theorem State.enter_op (s : State) (f : Fsm) : (s.enter f).op = s.op := rfl
@[simp] theorem State.enter_args (s : State) (f : Fsm) : (s.enter f).args = s.args := rfl
@[simp] theorem State.enter_busHeld (s : State) (f : Fsm) : (s.enter f).busHeld = s.busHeld := rfl
@[simp] theorem State.enter_cs (s : State) (f : Fsm) : (s.enter f).cs = s.cs := rfl
@[simp] theorem State.enter_resetLevel (s : State) (f : Fsm) : (s.enter f).resetLevel = s.resetLevel := rfl
@[simp] theorem State.enter_bootMode (s : State) (f : Fsm) : (s.enter f).bootMode = s.bootMode := rfl
@[simp] theorem State.enter_err (s : State) (f : Fsm) : (s.enter f).err = s.err := rfl
@[simp] theorem State.enter_truncated (s : State) (f : Fsm) : (s.enter f).truncated = s.truncated := rfl
@[simp] theorem State.enter_tx (s : State) (f : Fsm) : (s.enter f).tx = s.tx := rfl
@[simp] theorem State.enter_txIdx (s : State) (f : Fsm) : (s.enter f).txIdx = s.txIdx := rfl
@[simp] theorem State.enter_probe (s : State) (f : Fsm) : (s.enter f).probe = s.probe := rfl
@[simp] theorem State.enter_n (s : State) (f : Fsm) : (s.enter f).n = s.n := rfl
@[simp] theorem State.enter_m (s : State) (f : Fsm) : (s.enter f).m = s.m := rfl
@[simp] theorem State.enter_timer (s : State) (f : Fsm) : (s.enter f).timer = s.timer := rfl
@[simp] theorem State.enter_rs (s : State) (f : Fsm) : (s.enter f).rs = s.rs := rfl
@[simp] theorem State.enter_slots (s : State) (f : Fsm) : (s.enter f).slots = s.slots := rfl
@[simp] theorem State.enter_marker (s : State) (f : Fsm) : (s.enter f).marker = s.marker := rfl
@[simp] theorem State.enter_rxCount (s : State) (f : Fsm) : (s.enter f).rxCount = s.rxCount := rfl
@[simp] theorem State.enter_trace (s : State) (f : Fsm) : (s.enter f).trace = s.trace := rfl
@[simp] theorem State.enter_obs (s : State) (f : Fsm) : (s.enter f).obs = s.obs ++ [⟨s.fsm, f, s.err⟩] := rfl
@[simp] theorem State.enter_requests (s : State) (f : Fsm) : (s.enter f).requests = s.requests := rfl
@[simp] theorem State.enter_env (s : State) (f : Fsm) : (s.enter f).env = s.env := rfl

/-! ### `tickOn` -/

@[simp] theorem State.tickOn_cfg (s : State) : (s.tickOn).cfg = s.cfg := rfl
@[simp] theorem State.tickOn_fsm (s : State) : (s.tickOn).fsm = s.fsm := rfl
@[simp] theorem State.tickOn_op (s : State) : (s.tickOn).op = s.op := rfl
@[simp] theorem State.tickOn_args (s : State) : (s.tickOn).args = s.args := rfl
@[simp] theorem State.tickOn_busHeld (s : State) : (s.tickOn).busHeld = s.busHeld := rfl
@[simp] theorem State.tickOn_cs (s : State) : (s.tickOn).cs = s.cs := rfl
@[simp] theorem State.tickOn_resetLevel (s : State) : (s.tickOn).resetLevel = s.resetLevel := rfl
@[simp] theorem State.tickOn_bootMode (s : State) : (s.tickOn).bootMode = s.bootMode := rfl
@[simp] theorem State.tickOn_err (s : State) : (s.tickOn).err = s.err := rfl
@[simp] theorem State.tickOn_truncated (s : State) : (s.tickOn).truncated = s.truncated := rfl
@[simp] theorem State.tickOn_tx (s : State) : (s.tickOn).tx = s.tx := rfl
@[simp] theorem State.tickOn_txIdx (s : State) : (s.tickOn).txIdx = s.txIdx := rfl
@[simp] theorem State.tickOn_probe (s : State) : (s.tickOn).probe = s.probe := rfl
@[simp] theorem State.tickOn_n (s : State) : (s.tickOn).n = s.n := rfl
@[simp] theorem State.tickOn_m (s : State) : (s.tickOn).m = s.m := rfl
@[simp] theorem State.tickOn_timer (s : State) : (s.tickOn).timer = s.timer := rfl
@[simp] theorem State.tickOn_rs (s : State) : (s.tickOn).rs = s.rs := rfl
@[simp] theorem State.tickOn_slots (s : State) : (s.tickOn).slots = s.slots := rfl
@[simp] theorem State.tickOn_marker (s : State) : (s.tickOn).marker = s.marker := rfl
@[simp] theorem State.tickOn_rxCount (s : State) : (s.tickOn).rxCount = s.rxCount := rfl
@[simp] theorem State.tickOn_trace (s : State) : (s.tickOn).trace = s.trace := rfl
@[simp] theorem State.tickOn_obs (s : State) : (s.tickOn).obs = s.obs := rfl
@[simp] theorem State.tickOn_requests (s : State) : (s.tickOn).requests = s.requests := rfl
@[simp] theorem State.tickOn_env (s : State) : (s.tickOn).env = { s.env with tick := s.env.tick + 1 } := rfl

/-! ### `resetStep` -/

@[simp] theorem State.resetStep_cfg (s : State) (k : Fin 8) : (s.resetStep k).cfg = s.cfg := rfl
@[simp] theorem State.resetStep_fsm (s : State) (k : Fin 8) : (s.resetStep k).fsm = s.fsm := rfl
@[simp] theorem State.resetStep_op (s : State) (k : Fin 8) : (s.resetStep k).op = s.op := rfl
@[simp] theorem State.resetStep_args (s : State) (k : Fin 8) : (s.resetStep k).args = s.args := rfl
@[simp] theorem State.resetStep_busHeld (s : State) (k : Fin 8) : (s.resetStep k).busHeld = s.busHeld := rfl
@[simp] theorem State.resetStep_cs (s : State) (k : Fin 8) : (s.resetStep k).cs = s.cs := rfl
@[simp] theorem State.resetStep_resetLevel (s : State) (k : Fin 8) : (s.resetStep k).resetLevel = s.resetLevel := rfl
@[simp] theorem State.resetStep_bootMode (s : State) (k : Fin 8) : (s.resetStep k).bootMode = s.bootMode := rfl
@[simp] theorem State.resetStep_err (s : State) (k : Fin 8) : (s.resetStep k).err = s.err := rfl
@[simp] theorem State.resetStep_truncated (s : State) (k : Fin 8) : (s.resetStep k).truncated = s.truncated := rfl
@[simp] theorem State.resetStep_tx (s : State) (k : Fin 8) : (s.resetStep k).tx = s.tx := rfl
@[simp] theorem State.resetStep_txIdx (s : State) (k : Fin 8) : (s.resetStep k).txIdx = s.txIdx := rfl
@[simp] theorem State.resetStep_probe (s : State) (k : Fin 8) : (s.resetStep k).probe = s.probe := rfl
@[simp] theorem State.resetStep_n (s : State) (k : Fin 8) : (s.resetStep k).n = s.n := rfl
@[simp] theorem State.resetStep_m (s : State) (k : Fin 8) : (s.resetStep k).m = s.m := rfl
@[simp] theorem State.resetStep_timer (s : State) (k : Fin 8) : (s.resetStep k).timer = s.timer := rfl
@[simp] theorem State.resetStep_rs (s : State) (k : Fin 8) : (s.resetStep k).rs = k := rfl
@[simp] theorem State.resetStep_slots (s : State) (k : Fin 8) : (s.resetStep k).slots = s.slots := rfl
@[simp] theorem State.resetStep_marker (s : State) (k : Fin 8) : (s.resetStep k).marker = s.marker := rfl
@[simp] theorem State.resetStep_rxCount (s : State) (k : Fin 8) : (s.resetStep k).rxCount = s.rxCount := rfl
@[simp] theorem State.resetStep_trace (s : State) (k : Fin 8) : (s.resetStep k).trace = s.trace := rfl
@[simp] theorem State.resetStep_obs (s : State) (k : Fin 8) : (s.resetStep k).obs = s.obs := rfl
@[simp] theorem State.resetStep_requests (s : State) (k : Fin 8) : (s.resetStep k).requests = s.requests := rfl
@[simp] theorem State.resetStep_env (s : State) (k : Fin 8) : (s.resetStep k).env = s.env := rfl

/-! ### The line primitives are events -/

@[simp] theorem State.lineSet_eq (s : State) (l : Line) : s.lineSet l = s.emit (.set l) := rfl
@[simp] theorem State.lineClear_eq (s : State) (l : Line) : s.lineClear l = s.emit (.clr l) := rfl
@[simp] theorem State.lineInit_eq (s : State) (l : Line) (p : PinMode) : s.lineInit l p = s.emit (.init l p) := rfl
@[simp] theorem State.delay_eq (s : State) (us : Nat) : s.delay us = s.emit (.dly us) := rfl

end Sys2Proof.Machine
end

