-- ==== Sys2Proof/Laws/Ops.lean ====
section
/-! SUPPORT. What the shared operations of Machine/Ops.lean do, said once: the answer queues, the byte exchanges, the
error latch, and the two relations that carry every frame fact: `Keeps` and `Emits`. -/

namespace Sys2Proof.Machine

/-! ### The answer queues: a queued answer, a free one, and what stays -/

section queues
variable (s : State)

theorem State.takeBus_cons (h : s.env.bus = a :: l) :
    s.takeBus = (a, { s with env := { s.env with bus := l } }) := by simp [State.takeBus, h]

theorem State.takeReady_cons (h : s.env.ready = a :: l) :
    s.takeReady = (a, { s with env := { s.env with ready := l } }) := by simp [State.takeReady, h]

theorem State.takeAbort_cons (h : s.env.abort = a :: l) :
    s.takeAbort = (a, { s with env := { s.env with abort := l } }) := by simp [State.takeAbort, h]

theorem State.takePolls_cons (h : s.env.polls = a :: l) :
    s.takePolls = (a, { s with env := { s.env with polls := l } }) := by simp [State.takePolls, h]

theorem State.takeTx_cons (h : s.env.tx = a :: l) :
    s.takeTx = (a, { s with env := { s.env with tx := l } }) := by simp [State.takeTx, h]

theorem State.takeRx_cons (h : s.env.rx = a :: l) :
    s.takeRx = (a, { s with env := { s.env with rx := l } }) := by simp [State.takeRx, h]

/-- An answer changes the answer queues and nothing else. -/
theorem State.takeBus_frame : s.takeBus.2 = { s with env := s.takeBus.2.env } := by
  unfold State.takeBus; split <;> rfl

theorem State.takeReady_frame : s.takeReady.2 = { s with env := s.takeReady.2.env } := by
  unfold State.takeReady; split <;> rfl

theorem State.takeAbort_frame : s.takeAbort.2 = { s with env := s.takeAbort.2.env } := by
  unfold State.takeAbort; split <;> rfl

theorem State.takePolls_frame : s.takePolls.2 = { s with env := s.takePolls.2.env } := by
  unfold State.takePolls; split <;> rfl

theorem State.takeTx_frame : s.takeTx.2 = { s with env := s.takeTx.2.env } := by
  unfold State.takeTx; split <;> rfl

theorem State.takeRx_frame : s.takeRx.2 = { s with env := s.takeRx.2.env } := by
  unfold State.takeRx; split <;> rfl

/-- A sample of ABORT: an event, an answer used. -/
theorem State.sampleAbort_frame : s.sampleAbort.2 =
    { s with env := s.sampleAbort.2.env, trace := s.trace ++ [.abt s.sampleAbort.1] } := by
  unfold State.sampleAbort State.emit; simp only; rw [State.takeAbort_frame]

/-- A sample of READY: an event, an answer used. -/
theorem State.readReady_frame : s.readReady.2 =
    { s with env := s.readReady.2.env, trace := s.trace ++ [.read .ready s.readReady.1] } := by
  unfold State.readReady State.emit; simp only; rw [State.takeReady_frame]

/-- A byte sent: an event, an answer used. -/
theorem State.txByte_frame (b : Byte) : s.txByte b =
    { s with env := (s.txByte b).env, trace := s.trace ++ [.x b s.takeTx.1] } := by
  unfold State.txByte State.emit; simp only; rw [State.takeTx_frame]

/-- A byte received: an event, an answer used, one exchange more in the phase. -/
theorem State.rxByte_frame : s.rxByte.2 =
    { s with env := s.rxByte.2.env, trace := s.trace ++ [.x Config.fillByte s.rxByte.1], rxCount := s.rxCount + 1 } := by
  unfold State.rxByte State.emit; simp only; rw [State.takeRx_frame]

theorem State.sampleAbort_cons (h : s.env.abort = a :: l) : s.sampleAbort =
    (a, { s with env := { s.env with abort := l }, trace := s.trace ++ [.abt a] }) := by
  simp [State.sampleAbort, State.takeAbort, h, State.emit]

theorem State.readReady_cons (h : s.env.ready = a :: l) : s.readReady =
    (a, { s with env := { s.env with ready := l }, trace := s.trace ++ [.read .ready a] }) := by
  simp [State.readReady, State.takeReady, h, State.emit]

theorem State.txByte_cons (b : Byte) (h : s.env.tx = a :: l) : s.txByte b =
    { s with env := { s.env with tx := l }, trace := s.trace ++ [.x b a] } := by
  simp [State.txByte, State.takeTx, h, State.emit]

theorem State.rxByte_cons (h : s.env.rx = a :: l) : s.rxByte =
    (a, { s with env := { s.env with rx := l }, trace := s.trace ++ [.x Config.fillByte a],
                 rxCount := s.rxCount + 1 }) := by
  simp [State.rxByte, State.takeRx, h, State.emit]

end queues

/-! ### The error latch (60_exceptions.md R226) -/

theorem State.latch_none (s : State) (e : ErrorKind) (h : s.err = none) :
    s.latch e = { s with err := some e } := by simp [State.latch, h]

theorem State.latch_some (s : State) (e : ErrorKind) (h : s.err = some d) : s.latch e = s := by
  simp [State.latch, h]

theorem State.latch_frame (s : State) (e : ErrorKind) : s.latch e = { s with err := (s.latch e).err } := by
  unfold State.latch; split <;> rfl

/-- The first error is kept: what the latch holds after a latch. -/
theorem State.latch_err (s : State) (e : ErrorKind) : (s.latch e).err = some (s.err.getD e) := by
  unfold State.latch; split <;> simp_all

/-- Taking an error, in full: the latch, the state register, the OBS event. -/
theorem State.takeError_frame (s : State) (e : ErrorKind) : s.takeError e =
    { s with err := some (s.err.getD e), fsm := errorExit s.fsm,
             obs := s.obs ++ [⟨s.fsm, errorExit s.fsm, some (s.err.getD e)⟩] } := by
  unfold State.takeError State.enter
  rw [State.latch_err, State.latch_frame]

/-! ### Frames carried along a sequence of operations -/

/-- The registers that no wait, send or decode writes. -/
structure Keeps (s t : State) : Prop where
  cfg : t.cfg = s.cfg
  fsm : t.fsm = s.fsm
  op : t.op = s.op
  args : t.args = s.args
  busHeld : t.busHeld = s.busHeld
  cs : t.cs = s.cs
  resetLevel : t.resetLevel = s.resetLevel
  bootMode : t.bootMode = s.bootMode
  tx : t.tx = s.tx
  rs : t.rs = s.rs
  obs : t.obs = s.obs
  requests : t.requests = s.requests
  bus : t.env.bus = s.env.bus

theorem Keeps.refl (s : State) : Keeps s s := ⟨rfl, rfl, rfl, rfl, rfl, rfl, rfl, rfl, rfl, rfl, rfl, rfl, rfl⟩

theorem Keeps.trans {s t u : State} (h : Keeps s t) (k : Keeps t u) : Keeps s u where
  cfg := k.cfg.trans h.cfg
  fsm := k.fsm.trans h.fsm
  op := k.op.trans h.op
  args := k.args.trans h.args
  busHeld := k.busHeld.trans h.busHeld
  cs := k.cs.trans h.cs
  resetLevel := k.resetLevel.trans h.resetLevel
  bootMode := k.bootMode.trans h.bootMode
  tx := k.tx.trans h.tx
  rs := k.rs.trans h.rs
  obs := k.obs.trans h.obs
  requests := k.requests.trans h.requests
  bus := k.bus.trans h.bus

/-- The trace grows by events that all satisfy `P`, and nothing of `Keeps` changes. -/
structure Emits (P : Event → Prop) (s t : State) : Prop where
  keeps : Keeps s t
  grows : ∃ l, t.trace = s.trace ++ l ∧ ∀ e ∈ l, P e

theorem Emits.refl (P : Event → Prop) (s : State) : Emits P s s := ⟨Keeps.refl s, [], by simp, by simp⟩

theorem Emits.trans {P : Event → Prop} {s t u : State} (h : Emits P s t) (k : Emits P t u) : Emits P s u := by
  obtain ⟨l, hl, pl⟩ := h.grows
  obtain ⟨r, hr, pr⟩ := k.grows
  refine ⟨h.keeps.trans k.keeps, l ++ r, by rw [hr, hl, List.append_assoc], fun e he => ?_⟩
  rcases List.mem_append.mp he with he | he
  · exact pl e he
  · exact pr e he

/-- An update that emits nothing and touches none of `Keeps` may stand anywhere in a sequence. -/
theorem Emits.silent {P : Event → Prop} {s t : State} (k : Keeps s t) (h : t.trace = s.trace) : Emits P s t :=
  ⟨k, [], by simpa using h, by simp⟩

/-- One event, with whatever `Keeps` leaves open. -/
theorem Emits.one {P : Event → Prop} {s t : State} (k : Keeps s t) (e : Event) (h : t.trace = s.trace ++ [e])
    (p : P e) : Emits P s t := ⟨k, [e], h, by simpa using p⟩

/-- The events of a ready wait (40_handshake.md R114). -/
def isWaitEvent : Event → Bool
  | .tstart | .abt _ | .read .ready _ | .texp _ => true
  | _ => false

/-- The events of a send (43_command_engine.md R187). -/
def isSendEvent : Event → Bool
  | .x _ _ => true
  | _ => false

/-- The events of a decode (41_frame_codec.md R136): ABORT samples, and bytes read with filler sent. -/
def isDecodeEvent : Event → Bool
  | .abt _ => true
  | .x o _ => decide (o = Config.fillByte)
  | _ => false

theorem State.takeRx_bus (s : State) : s.takeRx.2.env.bus = s.env.bus := by
  unfold State.takeRx; split <;> rfl

theorem State.takeTx_bus (s : State) : s.takeTx.2.env.bus = s.env.bus := by
  unfold State.takeTx; split <;> rfl

theorem State.takeAbort_bus (s : State) : s.takeAbort.2.env.bus = s.env.bus := by
  unfold State.takeAbort; split <;> rfl

theorem State.takeReady_bus (s : State) : s.takeReady.2.env.bus = s.env.bus := by
  unfold State.takeReady; split <;> rfl

theorem State.takePolls_keeps (s : State) : Keeps s s.takePolls.2 := by
  unfold State.takePolls; split <;> exact ⟨rfl, rfl, rfl, rfl, rfl, rfl, rfl, rfl, rfl, rfl, rfl, rfl, rfl⟩

theorem State.takePolls_trace (s : State) : s.takePolls.2.trace = s.trace := by
  unfold State.takePolls; split <;> rfl

theorem State.sampleAbort_keeps (s : State) : Keeps s s.sampleAbort.2 := by
  unfold State.sampleAbort State.takeAbort
  split <;> exact ⟨rfl, rfl, rfl, rfl, rfl, rfl, rfl, rfl, rfl, rfl, rfl, rfl, rfl⟩

theorem State.readReady_keeps (s : State) : Keeps s s.readReady.2 := by
  unfold State.readReady State.takeReady
  split <;> exact ⟨rfl, rfl, rfl, rfl, rfl, rfl, rfl, rfl, rfl, rfl, rfl, rfl, rfl⟩

theorem State.txByte_keeps (s : State) (b : Byte) : Keeps s (s.txByte b) := by
  unfold State.txByte State.takeTx
  split <;> exact ⟨rfl, rfl, rfl, rfl, rfl, rfl, rfl, rfl, rfl, rfl, rfl, rfl, rfl⟩

theorem State.rxByte_keeps (s : State) : Keeps s s.rxByte.2 := by
  unfold State.rxByte State.takeRx
  split <;> exact ⟨rfl, rfl, rfl, rfl, rfl, rfl, rfl, rfl, rfl, rfl, rfl, rfl, rfl⟩

theorem State.latch_keeps (s : State) (e : ErrorKind) : Keeps s (s.latch e) := by
  unfold State.latch; split <;> exact ⟨rfl, rfl, rfl, rfl, rfl, rfl, rfl, rfl, rfl, rfl, rfl, rfl, rfl⟩

theorem State.latch_trace (s : State) (e : ErrorKind) : (s.latch e).trace = s.trace := by
  unfold State.latch; split <;> rfl

theorem State.sampleAbort_decode (s : State) : Emits (isDecodeEvent · = true) s s.sampleAbort.2 :=
  .one s.sampleAbort_keeps _ (congrArg State.trace s.sampleAbort_frame) rfl

theorem State.sampleAbort_wait (s : State) : Emits (isWaitEvent · = true) s s.sampleAbort.2 :=
  .one s.sampleAbort_keeps _ (congrArg State.trace s.sampleAbort_frame) rfl

theorem State.readReady_wait (s : State) : Emits (isWaitEvent · = true) s s.readReady.2 :=
  .one s.readReady_keeps _ (congrArg State.trace s.readReady_frame) rfl

theorem State.txByte_send (s : State) (b : Byte) : Emits (isSendEvent · = true) s (s.txByte b) :=
  .one (s.txByte_keeps b) _ (congrArg State.trace (s.txByte_frame b)) rfl

theorem State.rxByte_decode (s : State) : Emits (isDecodeEvent · = true) s s.rxByte.2 :=
  .one s.rxByte_keeps _ (congrArg State.trace s.rxByte_frame) rfl

theorem State.latch_emits (P : Event → Prop) (s : State) (e : ErrorKind) : Emits P s (s.latch e) :=
  .silent (s.latch_keeps e) (s.latch_trace e)

end Sys2Proof.Machine
end

