-- ==== Sys2Proof/Laws/Handshake.lean ====
section
/-! SUPPORT. What the Link Handshake can do, said once (40_handshake.md R111-R117). -/

namespace Sys2Proof.Machine

/-- What a ready wait leaves of a state: only the timer, the answers and the trace are its own. -/
structure WaitFrame (s t : State) : Prop where
  emits : Emits (isWaitEvent · = true) s t
  err : t.err = s.err
  truncated : t.truncated = s.truncated
  txIdx : t.txIdx = s.txIdx
  probe : t.probe = s.probe
  n : t.n = s.n
  m : t.m = s.m
  slots : t.slots = s.slots
  marker : t.marker = s.marker
  rxCount : t.rxCount = s.rxCount

theorem WaitFrame.trans {s t u : State} (h : WaitFrame s t) (k : WaitFrame t u) : WaitFrame s u where
  emits := h.emits.trans k.emits
  err := k.err.trans h.err
  truncated := k.truncated.trans h.truncated
  txIdx := k.txIdx.trans h.txIdx
  probe := k.probe.trans h.probe
  n := k.n.trans h.n
  m := k.m.trans h.m
  slots := k.slots.trans h.slots
  marker := k.marker.trans h.marker
  rxCount := k.rxCount.trans h.rxCount

theorem State.sampleAbort_waitFrame (s : State) : WaitFrame s s.sampleAbort.2 := by
  refine ⟨s.sampleAbort_wait, ?_, ?_, ?_, ?_, ?_, ?_, ?_, ?_, ?_⟩ <;> rw [State.sampleAbort_frame]

theorem State.readReady_waitFrame (s : State) : WaitFrame s s.readReady.2 := by
  refine ⟨s.readReady_wait, ?_, ?_, ?_, ?_, ?_, ?_, ?_, ?_, ?_⟩ <;> rw [State.readReady_frame]

theorem State.takePolls_waitFrame (s : State) : WaitFrame s s.takePolls.2 := by
  refine ⟨.silent s.takePolls_keeps s.takePolls_trace, ?_, ?_, ?_, ?_, ?_, ?_, ?_, ?_, ?_⟩ <;>
    rw [State.takePolls_frame]

theorem State.texp_waitFrame (s : State) (b : Bool) : WaitFrame s (s.emit (.texp b)) :=
  ⟨.one ⟨rfl, rfl, rfl, rfl, rfl, rfl, rfl, rfl, rfl, rfl, rfl, rfl, rfl⟩ _ rfl rfl,
    rfl, rfl, rfl, rfl, rfl, rfl, rfl, rfl, rfl⟩

theorem State.startTimer_waitFrame (s : State) : WaitFrame s s.startTimer :=
  ⟨.one ⟨rfl, rfl, rfl, rfl, rfl, rfl, rfl, rfl, rfl, rfl, rfl, rfl, rfl⟩ _ rfl rfl,
    rfl, rfl, rfl, rfl, rfl, rfl, rfl, rfl, rfl⟩

/-- The errors a ready wait can raise (40_handshake.md R114). -/
def isWaitResult (r : Option ErrorKind) : Prop := r = none ∨ r = some .handshakeTimeout ∨ r = some .cancelled

/-- One pass of the wait, given what its timer test does. -/
theorem poll_spec {k : State → Ended} (hk : ∀ s, WaitFrame s (k s).1 ∧ isWaitResult (k s).2) (s : State) :
    WaitFrame s (poll k s).1 ∧ isWaitResult (poll k s).2 := by
  have ha := s.sampleAbort_waitFrame
  unfold poll
  split
  · exact ⟨ha, .inr (.inr rfl)⟩
  · have hr := ha.trans s.sampleAbort.2.readReady_waitFrame
    split
    · exact ⟨hr, .inl rfl⟩
    · exact ⟨hr.trans (hk _).1, (hk _).2⟩

theorem timerTests_spec (j : Nat) : ∀ s, WaitFrame s (timerTests j s).1 ∧ isWaitResult (timerTests j s).2 := by
  induction j with
  | zero => exact fun s => ⟨s.texp_waitFrame true, .inr (.inl rfl)⟩
  | succ j ih =>
    intro s
    have h := poll_spec ih (s.emit (.texp false))
    exact ⟨(s.texp_waitFrame false).trans h.1, h.2⟩

/-- All that wait_ready can do (40_handshake.md R114, R115). -/
theorem waitReady_spec (s : State) : WaitFrame s (waitReady s).1 ∧ isWaitResult (waitReady s).2 := by
  have h := poll_spec (k := fun s => timerTests s.takePolls.1 s.takePolls.2)
    (fun s => ⟨s.takePolls_waitFrame.trans (timerTests_spec _ _).1, (timerTests_spec _ _).2⟩) s.startTimer
  exact ⟨s.startTimer_waitFrame.trans h.1, h.2⟩

/-- select, in full (40_handshake.md R116). -/
theorem select_eq (s : State) : select s = { s with cs := .low, trace := s.trace ++ [.clr .cs] } := rfl

/-- deselect, in full (40_handshake.md R117). -/
theorem deselect_eq (s : State) :
    deselect s = { s with cs := .high, trace := s.trace ++ [.set .cs, .dly s.cfg.tSettleUs] } := by
  simp [deselect, State.emit]

/-- The trace of reset_sequence (40_handshake.md R111). -/
def resetTrace (c : Cfg) : List Event :=
  [.init .boot .out, .set .boot, .set .cs, .init .reset .out, .clr .reset, .dly c.tResetLowUs, .set .reset,
    .dly c.tBootUs, .init .boot (.inPull c.bootReleaseMode)]

/-- reset_sequence, in full (40_handshake.md R111, R113). -/
theorem resetSequence_eq (s : State) : resetSequence s =
    { s with rs := 7, bootMode := .inPull, cs := .high, resetLevel := .high, trace := s.trace ++ resetTrace s.cfg } := by
  simp [resetSequence, State.resetStep, State.emit, resetTrace]

/-- A poll that reads ABORT 0 and READY 1 goes on to its timer test (40_handshake.md R114). -/
theorem poll_waits {k : State → Ended} (s : State) (ha : s.env.abort = .low :: as) (hr : s.env.ready = .high :: rs) :
    poll k s = k { s with
      env := { s.env with abort := as, ready := rs }, trace := s.trace ++ [.abt .low, .read .ready .high] } := by
  unfold poll
  rw [s.sampleAbort_cons ha]
  simp only [reduceCtorEq, if_false]
  rw [State.readReady_cons (a := .high) (l := rs) _ (by simpa using hr)]
  simp

/-- A poll that reads ABORT 0 and READY 0 returns (40_handshake.md R114). -/
theorem poll_returns {k : State → Ended} (s : State) (ha : s.env.abort = .low :: as) (hr : s.env.ready = .low :: rs) :
    poll k s = ({ s with
      env := { s.env with abort := as, ready := rs }, trace := s.trace ++ [.abt .low, .read .ready .low] }, none) := by
  unfold poll
  rw [s.sampleAbort_cons ha]
  simp only [reduceCtorEq, if_false]
  rw [State.readReady_cons (a := .low) (l := rs) _ (by simpa using hr)]
  simp

/-- A poll that reads ABORT 1 is cancelled (40_handshake.md R114). -/
theorem poll_cancelled {k : State → Ended} (s : State) (ha : s.env.abort = .high :: as) :
    poll k s = ({ s with
      env := { s.env with abort := as }, trace := s.trace ++ [.abt .high] }, some .cancelled) := by
  unfold poll
  rw [s.sampleAbort_cons ha]
  simp

/-- A wait whose first poll finds READY low (40_handshake.md R114: "it returns after one READ, with no wait"). -/
theorem waitReady_at_once (s : State) (ha : s.env.abort = .low :: as) (hr : s.env.ready = .low :: rs) :
    waitReady s = ({ s with
      timer := Config.timerNow s.env.timers,
      env := { s.env with abort := as, ready := rs, timers := s.env.timers + 1 },
      trace := s.trace ++ [.tstart, .abt .low, .read .ready .low] }, none) := by
  simp [waitReady, poll, State.startTimer, State.emit, State.sampleAbort, State.takeAbort, ha,
    State.readReady, State.takeReady, hr]

/-- A wait whose first poll finds ABORT at 1 (40_handshake.md R114, 60_exceptions.md R223). -/
theorem waitReady_cancelled (s : State) (ha : s.env.abort = .high :: as) :
    waitReady s = ({ s with
      timer := Config.timerNow s.env.timers,
      env := { s.env with abort := as, timers := s.env.timers + 1 },
      trace := s.trace ++ [.tstart, .abt .high] }, some .cancelled) := by
  simp [waitReady, poll, State.startTimer, State.emit, State.sampleAbort, State.takeAbort, ha]

end Sys2Proof.Machine
end

