-- ==== Sys2Proof/Laws/Codec.lean ====
section
/-! SUPPORT. What the Frame Codec can do, said once: the shape and length of a request frame, sending it, and the frame of
every decode step (41_frame_codec.md R130-R149). -/

namespace Sys2Proof.Machine

/-! ### Encode -/

theorem frameBody_length (op : Byte) (ps : List (List Byte)) :
    (frameBody op ps).length = 4 + ps.length + (ps.map List.length).sum := by
  have h : (ps.flatMap paramField).length = ps.length + (ps.map List.length).sum := by
    induction ps with
    | nil => rfl
    | cons p ps ih => simp [paramField, ih]; omega
  simp [frameBody, h]; omega

theorem padCount_lt (len : Nat) : padCount len < 4 := by unfold padCount; omega

theorem padCount_aligns (len : Nat) : (len + padCount len) % 4 = 0 := by unfold padCount; omega

theorem padFrame_length (f : List Byte) : (padFrame f).length = f.length + padCount f.length := by
  simp [padFrame]

/-- Encode either gives the padded body or refuses (41_frame_codec.md R130, R131). -/
theorem encodeFrame_ok {op : Byte} {ps : List (List Byte)} {f : List Byte} (h : encodeFrame op ps = .ok f) :
    encodable ps = true ∧ f = padFrame (frameBody op ps) := by
  unfold encodeFrame at h
  split at h
  · exact ⟨‹_›, (Except.ok.inj h).symm⟩
  · cases h

/-- The bounds of an encodable parameter list (41_frame_codec.md R130). -/
theorem encodable_iff (ps : List (List Byte)) :
    encodable ps = true ↔ ps.length ≤ 7 ∧ ∀ p ∈ ps, p.length ≤ 255 := by
  rw [encodable, Bool.and_eq_true, decide_eq_true_iff, List.all_eq_true]
  simp only [decide_eq_true_iff, Config.paramCeiling]

theorem sum_lengths_le {b : Nat} (ps : List (List Byte)) (h : ∀ p ∈ ps, p.length ≤ b) :
    (ps.map List.length).sum ≤ ps.length * b := by
  induction ps with
  | nil => simp
  | cons p ps ih =>
    have h1 := h p (by simp)
    have h2 := ih (fun q hq => h q (by simp [hq]))
    simp only [List.map_cons, List.sum_cons, List.length_cons, Nat.add_mul]
    omega

/-- The transmit register's bound (10_state.md R32): aligned, at most 1796 bytes. -/
theorem encodeFrame_bounds {op : Byte} {ps : List (List Byte)} {f : List Byte} (h : encodeFrame op ps = .ok f) :
    f.length % 4 = 0 ∧ f.length ≤ 1796 := by
  obtain ⟨he, rfl⟩ := encodeFrame_ok h
  obtain ⟨h7, h255⟩ := (encodable_iff ps).mp he
  have hs := sum_lengths_le ps h255
  have hb := frameBody_length op ps
  have hp := padCount_lt (frameBody op ps).length
  have ha := padCount_aligns (frameBody op ps).length
  rw [padFrame_length]
  refine ⟨ha, ?_⟩
  have : ps.length * 255 ≤ 7 * 255 := Nat.mul_le_mul_right _ h7
  omega

/-! ### Sending -/

/-- What sending leaves of a state. -/
structure SendFrame (s t : State) : Prop where
  emits : Emits (isSendEvent · = true) s t
  err : t.err = s.err
  truncated : t.truncated = s.truncated
  probe : t.probe = s.probe
  n : t.n = s.n
  m : t.m = s.m
  timer : t.timer = s.timer
  slots : t.slots = s.slots
  marker : t.marker = s.marker
  rxCount : t.rxCount = s.rxCount

theorem SendFrame.trans {s t u : State} (h : SendFrame s t) (k : SendFrame t u) : SendFrame s u where
  emits := h.emits.trans k.emits
  err := k.err.trans h.err
  truncated := k.truncated.trans h.truncated
  probe := k.probe.trans h.probe
  n := k.n.trans h.n
  m := k.m.trans h.m
  timer := k.timer.trans h.timer
  slots := k.slots.trans h.slots
  marker := k.marker.trans h.marker
  rxCount := k.rxCount.trans h.rxCount

/-- All that sending bytes does: one exchange a byte, in index order (43_command_engine.md R187). -/
theorem sendBytes_spec (f : List Byte) : ∀ s, SendFrame s (sendBytes f s) ∧ (sendBytes f s).txIdx = s.txIdx + f.length ∧
    ∃ is : List Byte, is.length = f.length ∧ (sendBytes f s).trace = s.trace ++ List.zipWith Event.x f is := by
  induction f with
  | nil => exact fun s => ⟨⟨.refl _ s, rfl, rfl, rfl, rfl, rfl, rfl, rfl, rfl, rfl⟩, rfl, [], rfl, by simp [sendBytes]⟩
  | cons b bs ih =>
    intro s
    have e1 : SendFrame s { s.txByte b with txIdx := s.txIdx + 1 } := by
      refine ⟨(s.txByte_send b).trans (.silent ⟨rfl, rfl, rfl, rfl, rfl, rfl, rfl, rfl, rfl, rfl, rfl, rfl, rfl⟩ rfl),
        ?_, ?_, ?_, ?_, ?_, ?_, ?_, ?_, ?_⟩ <;> rw [s.txByte_frame b]
    have h1 : ({ s.txByte b with txIdx := s.txIdx + 1 } : State).trace = s.trace ++ [.x b s.takeTx.1] := by
      rw [s.txByte_frame b]
    obtain ⟨hf, hi, is, hl, ht⟩ := ih { s.txByte b with txIdx := s.txIdx + 1 }
    refine ⟨e1.trans hf, ?_, s.takeTx.1 :: is, by simp [hl], ?_⟩
    · rw [sendBytes, hi]; simp only [List.length_cons]; omega
    · rw [sendBytes, ht, h1]; simp

/-- Sending with the device's answers queued. -/
theorem sendBytes_queued (f : List Byte) : ∀ (s : State) (is rest : List Byte), is.length = f.length →
    s.env.tx = is ++ rest → sendBytes f s = { s with
      env := { s.env with tx := rest }, txIdx := s.txIdx + f.length,
      trace := s.trace ++ List.zipWith Event.x f is } := by
  induction f with
  | nil =>
    intro s is rest hl h
    obtain rfl := List.length_eq_zero_iff.mp hl
    simp only [List.nil_append] at h
    simp [sendBytes, ← h]
  | cons b bs ih =>
    intro s is rest hl h
    cases is with
    | nil => simp at hl
    | cons i is =>
      have hl' : is.length = bs.length := by simpa using hl
      simp only [sendBytes]
      rw [s.txByte_cons b (by simpa using h), ih _ is rest hl' rfl]
      simp
      omega

/-! ### Receiving -/

/-- What a decode leaves of a state, besides what `Keeps` says: the timer and the send index stay, the probe counter
and the slots stay within their bounds, and the clamped count is the old one or within `b`. -/
structure DecodeFrame (b : Nat) (s t : State) : Prop where
  emits : Emits (isDecodeEvent · = true) s t
  timer : t.timer = s.timer
  txIdx : t.txIdx = s.txIdx
  probe : t.probe ≤ max s.probe s.cfg.probeLimit
  count : t.m ≤ max s.m b
  slots : (∀ p ∈ s.slots, p.length ≤ 255) → ∀ p ∈ t.slots, p.length ≤ 255

variable {b : Nat}

theorem DecodeFrame.refl (s : State) : DecodeFrame b s s :=
  ⟨.refl _ s, rfl, rfl, Nat.le_max_left _ _, Nat.le_max_left _ _, fun h => h⟩

theorem DecodeFrame.trans {s t u : State} (h : DecodeFrame b s t) (k : DecodeFrame b t u) : DecodeFrame b s u where
  emits := h.emits.trans k.emits
  timer := k.timer.trans h.timer
  txIdx := k.txIdx.trans h.txIdx
  probe := by
    have h1 := h.probe
    have h2 := k.probe
    rw [h.emits.keeps.cfg] at h2
    omega
  count := by
    have h1 := h.count
    have h2 := k.count
    omega
  slots := fun hs => k.slots (h.slots hs)

/-- A silent write of registers outside the frame. -/
theorem DecodeFrame.write {s t : State} (k : Keeps s t) (h : t.trace = s.trace) (h1 : t.timer = s.timer)
    (h2 : t.txIdx = s.txIdx) (h3 : t.probe = s.probe) (h4 : t.m ≤ max s.m b) (h5 : t.slots = s.slots) :
    DecodeFrame b s t :=
  ⟨.silent k h, h1, h2, by omega, h4, by rw [h5]; exact fun h => h⟩

theorem State.rxByte_decodeFrame (s : State) : DecodeFrame b s s.rxByte.2 := by
  refine ⟨s.rxByte_decode, ?_, ?_, ?_, ?_, ?_⟩ <;> rw [s.rxByte_frame] <;>
    first | rfl | exact Nat.le_max_left _ _ | exact fun h => h

theorem State.sampleAbort_decodeFrame (s : State) : DecodeFrame b s s.sampleAbort.2 := by
  refine ⟨s.sampleAbort_decode, ?_, ?_, ?_, ?_, ?_⟩ <;> rw [s.sampleAbort_frame] <;>
    first | rfl | exact Nat.le_max_left _ _ | exact fun h => h

theorem State.latch_decodeFrame (s : State) (e : ErrorKind) : DecodeFrame b s (s.latch e) := by
  refine ⟨s.latch_emits _ e, ?_, ?_, ?_, ?_, ?_⟩ <;> rw [s.latch_frame] <;>
    first | rfl | exact Nat.le_max_left _ _ | exact fun h => h

theorem readBytes_frame (k : Nat) : ∀ s, DecodeFrame b s (readBytes k s).2 := by
  induction k with
  | zero => exact fun s => .refl s
  | succ k ih => exact fun s => s.rxByte_decodeFrame.trans (ih _)

theorem readBytes_length (k : Nat) : ∀ s, (readBytes k s).1.length = k := by
  induction k with
  | zero => exact fun s => rfl
  | succ k ih => exact fun s => by simp [readBytes, ih]

theorem drain_frame (k : Nat) : ∀ s, DecodeFrame b s (drain k s) := by
  induction k with
  | zero => exact fun s => .refl s
  | succ k ih => exact fun s => s.rxByte_decodeFrame.trans (ih _)

theorem padRx_frame (s : State) : DecodeFrame b s (padRx s) := by
  unfold padRx; split
  · exact drain_frame _ _
  · exact .refl s

theorem storeSlot_mem {slots : List (List Byte)} {i : Nat} {p q : List Byte} (h : q ∈ storeSlot slots i p) :
    q ∈ slots ∨ q = p := by
  unfold storeSlot at h
  rcases List.mem_append.mp h with h | h
  · exact .inl (List.mem_of_mem_take h)
  · rcases List.mem_cons.mp h with h | h
    · exact .inr h
    · exact .inl (List.mem_of_mem_drop h)

theorem State.store_frame (s : State) (i : Nat) (p : List Byte) (hp : p.length ≤ 255) :
    DecodeFrame b s (s.store i p) := by
  unfold State.store; split
  · refine ⟨.silent ⟨rfl, rfl, rfl, rfl, rfl, rfl, rfl, rfl, rfl, rfl, rfl, rfl, rfl⟩ rfl, rfl, rfl,
      Nat.le_max_left _ _, Nat.le_max_left _ _, fun h q hq => ?_⟩
    rcases storeSlot_mem hq with hq | hq
    · exact h q hq
    · exact hq ▸ hp
  · exact .refl s

/-- The payload of a length byte is at most 255 bytes. -/
theorem readBytes_byte_length (l : Byte) (s : State) : (readBytes l.toNat s).1.length ≤ 255 := by
  rw [readBytes_length]; have := l.isLt; omega

theorem hunt_frame (k : Nat) : ∀ s, s.probe + k ≤ s.cfg.probeLimit → DecodeFrame b s (hunt k s).1 := by
  induction k with
  | zero => intro s _; unfold hunt; split <;> exact s.sampleAbort_decodeFrame
  | succ k ih =>
    intro s hs
    unfold hunt
    split
    · exact s.sampleAbort_decodeFrame
    · dsimp only
      have h : DecodeFrame b s { s.sampleAbort.2.rxByte.2 with probe := s.probe + 1 } := by
        have h0 : DecodeFrame b s s.sampleAbort.2.rxByte.2 :=
          s.sampleAbort_decodeFrame.trans s.sampleAbort.2.rxByte_decodeFrame
        exact ⟨h0.emits.trans (.silent ⟨rfl, rfl, rfl, rfl, rfl, rfl, rfl, rfl, rfl, rfl, rfl, rfl, rfl⟩ rfl),
          h0.timer, h0.txIdx, by simp only; omega, h0.count, h0.slots⟩
      split
      · exact h.trans (.write ⟨rfl, rfl, rfl, rfl, rfl, rfl, rfl, rfl, rfl, rfl, rfl, rfl, rfl⟩ rfl rfl rfl rfl
          (Nat.le_max_left _ _) rfl)
      · refine h.trans (ih _ ?_)
        rw [h.emits.keeps.cfg]; simp only; omega

theorem echoCheck_frame (op : Byte) (s : State) : DecodeFrame b s (echoCheck op s).1 := by
  have h : DecodeFrame b s { s.rxByte.2 with marker := false } := s.rxByte_decodeFrame.trans
    (.write ⟨rfl, rfl, rfl, rfl, rfl, rfl, rfl, rfl, rfl, rfl, rfl, rfl, rfl⟩ rfl rfl rfl rfl
      (Nat.le_max_left _ _) rfl)
  unfold echoCheck
  dsimp only
  split
  · exact h.trans ((drain_frame _ _).trans (padRx_frame _))
  · split <;> exact h

theorem finishFrame_frame (s : State) : DecodeFrame b s (finishFrame s).1 := by
  have h : DecodeFrame b s _ := s.rxByte_decodeFrame.trans (padRx_frame s.rxByte.2)
  unfold finishFrame
  dsimp only
  split
  · exact h
  · split <;> exact h

theorem latchShape_frame (cap : Nat) (exact : Option Nat) (len : Nat) (s : State) :
    DecodeFrame b s (latchShape cap exact len s) := by
  unfold latchShape
  split
  · exact s.latch_decodeFrame _
  · split
    · split
      · exact s.latch_decodeFrame _
      · exact .refl s
    · exact .refl s

theorem readValue_frame (hb : 1 ≤ b) (cap : Nat) (exact : Option Nat) (s : State) :
    DecodeFrame b s (readValue cap exact s) := by
  have h : DecodeFrame b s _ := s.rxByte_decodeFrame.trans
    ((latchShape_frame cap exact s.rxByte.1.toNat s.rxByte.2).trans (readBytes_frame s.rxByte.1.toNat _))
  unfold readValue
  dsimp only
  split
  · exact h.trans ((State.store_frame _ 0 _ (readBytes_byte_length _ _)).trans
      (.write ⟨rfl, rfl, rfl, rfl, rfl, rfl, rfl, rfl, rfl, rfl, rfl, rfl, rfl⟩ rfl rfl rfl rfl
        (by simp only; omega) rfl))
  · exact h

theorem singleBody_frame (hb : 1 ≤ b) (cap : Nat) (exact : Option Nat) (s : State) :
    DecodeFrame b s (singleBody cap exact s).1 := by
  have h : DecodeFrame b s { s.rxByte.2 with n := s.rxByte.1 } := s.rxByte_decodeFrame.trans
    (.write ⟨rfl, rfl, rfl, rfl, rfl, rfl, rfl, rfl, rfl, rfl, rfl, rfl, rfl⟩ rfl rfl rfl rfl
      (Nat.le_max_left _ _) rfl)
  unfold singleBody
  dsimp only
  split
  · exact h.trans ((readValue_frame hb cap exact _).trans (finishFrame_frame _))
  · exact h

theorem findMarker_frame (s : State) : DecodeFrame b s (findMarker s).1 := by
  unfold findMarker
  split
  · exact .refl s
  · have h : DecodeFrame b s { s with probe := 0, m := 0 } :=
      ⟨.silent ⟨rfl, rfl, rfl, rfl, rfl, rfl, rfl, rfl, rfl, rfl, rfl, rfl, rfl⟩ rfl, rfl, rfl, Nat.zero_le _,
        Nat.zero_le _, fun h => h⟩
    exact h.trans (hunt_frame _ _ (by simp))

/-- A sequence of decode steps has the frame of its steps. -/
theorem andThen_frame {s : State} {r : Ended} {f : State → Ended} (h : DecodeFrame b s r.1)
    (hf : ∀ t, DecodeFrame b t (f t).1) : DecodeFrame b s (r.andThen f).1 := by
  unfold Ended.andThen
  split
  · exact h.trans (hf _)
  · exact h

theorem decodeSingle_frame (hb : 1 ≤ b) (op : Byte) (cap : Nat) (exact : Option Nat) (s : State) :
    DecodeFrame b s (decodeSingle op cap exact s).1 :=
  andThen_frame (andThen_frame (findMarker_frame s) (echoCheck_frame op)) (singleBody_frame hb cap exact)

/-! ### Receiving with the bytes queued -/

/-- The state after these bytes have been received from the queue, which then holds `rest`. -/
def State.received (s : State) (bytes rest : List Byte) : State :=
  { s with
    env := { s.env with rx := rest }, trace := s.trace ++ bytes.map (Event.x Config.fillByte),
    rxCount := s.rxCount + bytes.length }

theorem State.received_nil (s : State) (rest : List Byte) (h : s.env.rx = rest) : s.received [] rest = s := by
  subst h
  simp [State.received]

theorem State.received_received (s : State) (x y l k : List Byte) :
    (s.received x l).received y k = s.received (x ++ y) k := by
  simp [State.received, Nat.add_assoc]

@[simp] theorem State.received_cfg (s : State) (x l : List Byte) : (s.received x l).cfg = s.cfg := rfl
@[simp] theorem State.received_err (s : State) (x l : List Byte) : (s.received x l).err = s.err := rfl
@[simp] theorem State.received_slots (s : State) (x l : List Byte) : (s.received x l).slots = s.slots := rfl
@[simp] theorem State.received_rx (s : State) (x l : List Byte) : (s.received x l).env.rx = l := rfl
@[simp] theorem State.received_rxCount (s : State) (x l : List Byte) :
    (s.received x l).rxCount = s.rxCount + x.length := rfl

theorem State.rxByte_queued (s : State) (a : Byte) (l : List Byte) (h : s.env.rx = a :: l) :
    s.rxByte = (a, s.received [a] l) := s.rxByte_cons h

theorem readBytes_queued (bytes : List Byte) : ∀ (s : State) (rest : List Byte), s.env.rx = bytes ++ rest →
    readBytes bytes.length s = (bytes, s.received bytes rest) := by
  induction bytes with
  | nil => intro s rest h; rw [State.received_nil _ _ (by simpa using h)]; rfl
  | cons a bytes ih =>
    intro s rest h
    rw [List.length_cons, readBytes, s.rxByte_queued a (bytes ++ rest) h, ih _ rest rfl, State.received_received]
    rfl

theorem drain_queued (bytes : List Byte) : ∀ (s : State) (rest : List Byte), s.env.rx = bytes ++ rest →
    drain bytes.length s = s.received bytes rest := by
  induction bytes with
  | nil => intro s rest h; rw [State.received_nil _ _ (by simpa using h)]; rfl
  | cons a bytes ih =>
    intro s rest h
    rw [List.length_cons, drain, s.rxByte_queued a (bytes ++ rest) h, ih _ rest rfl, State.received_received]
    rfl

/-- PadRx with its filler queued (41_frame_codec.md R148). -/
theorem padRx_queued (s : State) (filler rest : List Byte) (h : s.env.rx = filler ++ rest)
    (hl : filler.length = if s.cfg.rxPad then padCount s.rxCount else 0) : padRx s = s.received filler rest := by
  unfold padRx
  split <;> rename_i hp
  · rw [if_pos hp] at hl; rw [← hl]; exact drain_queued _ _ _ h
  · rw [if_neg hp] at hl
    obtain rfl := List.length_eq_zero_iff.mp hl
    rw [State.received_nil _ _ (by simpa using h)]

/-- The terminator with its filler queued (41_frame_codec.md R143). -/
theorem finishFrame_queued (s : State) (term : Byte) (filler rest : List Byte)
    (h : s.env.rx = term :: (filler ++ rest))
    (hl : filler.length = if s.cfg.rxPad then padCount (s.rxCount + 1) else 0) :
    finishFrame s = (s.received (term :: filler) rest,
      match s.err with
      | some e => some e
      | none => if term = Config.endMarker then none else some .missingTerminator) := by
  unfold finishFrame
  rw [s.rxByte_queued _ _ h]
  dsimp only
  rw [padRx_queued _ filler rest rfl (by simpa using hl), State.received_received]
  simp only [List.cons_append, List.nil_append, State.received_err]
  cases s.err with
  | some e => rfl
  | none => by_cases ht : term = Config.endMarker <;> simp only [ht, if_true, if_false]

/-- One probe that finds another byte than the start marker (41_frame_codec.md R137). -/
theorem hunt_other (k : Nat) (s : State) (a : Byte) (rest : List Byte) (ab : List Level)
    (ha : s.env.abort = .low :: ab) (hx : s.env.rx = a :: rest) (hne : a ≠ Config.startMarker) :
    hunt (k + 1) s = hunt k { s with
      probe := s.probe + 1, rxCount := s.rxCount + 1, trace := s.trace ++ [.abt .low, .x Config.fillByte a],
      env := { s.env with abort := ab, rx := rest } } := by
  simp only [hunt]
  rw [s.sampleAbort_cons ha]
  simp only [reduceCtorEq, if_false]
  rw [State.rxByte_cons (a := a) (l := rest) _ (by exact hx)]
  simp only [hne, if_false]
  congr 1
  simp

end Sys2Proof.Machine
end

