-- ==== Sys2Proof/Laws/Demux.lean ====
section
/-! SUPPORT. What the decoders can do, said once for both modes: the frame, the errors, the slots, and their outcome on
queued bytes (41_frame_codec.md R137-R149, 42_demux.md R161-R170). -/

namespace Sys2Proof.Machine

variable {b : Nat}

theorem readRecord_frame (recCap i : Nat) (s : State) : DecodeFrame b s (readRecord recCap i s) := by
  unfold readRecord
  dsimp only
  have h : DecodeFrame b s (if recCap < s.rxByte.1.toNat then s.rxByte.2.latch .bufferTooSmall else s.rxByte.2) := by
    split
    · exact s.rxByte_decodeFrame.trans (State.latch_decodeFrame _ _)
    · exact s.rxByte_decodeFrame
  exact h.trans ((readBytes_frame _ _).trans (State.store_frame _ _ _ (readBytes_byte_length _ _)))

theorem drainRecord_frame (s : State) : DecodeFrame b s (drainRecord s) :=
  s.rxByte_decodeFrame.trans (drain_frame _ _)

theorem readRecords_frame (recCap left : Nat) : ∀ i s, DecodeFrame b s (readRecords recCap left i s) := by
  induction left with
  | zero => exact fun i s => .refl s
  | succ left ih =>
    intro i s
    unfold readRecords
    split
    · exact (readRecord_frame recCap i s).trans (ih _ _)
    · exact (drainRecord_frame s).trans (ih _ _)

theorem listBody_frame {maxParams : Nat} (hb : maxParams ≤ b) (recCap : Nat) (s : State) :
    DecodeFrame b s (listBody maxParams recCap s).1 := by
  unfold listBody
  dsimp only
  have h : DecodeFrame b s { s.rxByte.2 with
      n := s.rxByte.1, m := min s.rxByte.1.toNat maxParams,
      truncated := truncatedFlag s.rxByte.1 (min s.rxByte.1.toNat maxParams) } := s.rxByte_decodeFrame.trans
    (.write ⟨rfl, rfl, rfl, rfl, rfl, rfl, rfl, rfl, rfl, rfl, rfl, rfl, rfl⟩ rfl rfl rfl rfl
      (by simp only; omega) rfl)
  exact h.trans ((readRecords_frame _ _ _ _).trans (finishFrame_frame _))

theorem decodeList_frame {maxParams : Nat} (hb : maxParams ≤ b) (op : Byte) (recCap : Nat) (s : State) :
    DecodeFrame b s (decodeList op maxParams recCap s).1 := by
  unfold decodeList
  dsimp only
  have h : DecodeFrame b s (if s.marker then s else { s with truncated := false }) := by
    split
    · exact .refl s
    · exact .write ⟨rfl, rfl, rfl, rfl, rfl, rfl, rfl, rfl, rfl, rfl, rfl, rfl, rfl⟩ rfl rfl rfl rfl
        (Nat.le_max_left _ _) rfl
  exact h.trans (andThen_frame (andThen_frame (findMarker_frame _) (echoCheck_frame op)) (listBody_frame hb _))

/-- How many parameters a decode may store (41_frame_codec.md R136, R142; 42_demux.md R162). -/
def DecodeMode.capacity : DecodeMode → Nat
  | .single _ _ => 1
  | .list maxParams _ => maxParams

/-- The frame of a decode in either mode: ABORT samples and bytes received, and none of the registers of `Keeps`. -/
theorem decodeReply_frame (op : Byte) (mode : DecodeMode) (s : State) :
    DecodeFrame mode.capacity s (decodeReply op mode s).1 := by
  unfold decodeReply
  split
  · exact decodeSingle_frame (Nat.le_refl 1) _ _ _ s
  · exact decodeList_frame (Nat.le_refl _) _ _ s

/-! ### Records with the bytes queued -/

theorem length_byte (p : List Byte) (h : p.length ≤ 255) : (BitVec.ofNat 8 p.length).toNat = p.length := by
  simp; omega

/-- A record within the clamp, in full (42_demux.md R164). -/
theorem readRecord_queued (recCap i : Nat) (p rest : List Byte) (s : State) (hp : p.length ≤ 255)
    (h : s.env.rx = paramField p ++ rest) : readRecord recCap i s =
    { s.received (paramField p) rest with
      err := if recCap < p.length then some (s.err.getD .bufferTooSmall) else s.err,
      slots := if recCap < p.length ∨ s.err ≠ none then s.slots else storeSlot s.slots i p } := by
  unfold readRecord
  rw [State.rxByte_queued _ (BitVec.ofNat 8 p.length) (p ++ rest) h]
  dsimp only
  rw [length_byte p hp]
  by_cases hc : recCap < p.length
  · simp only [hc, if_true]
    rw [State.latch_frame, State.latch_err, readBytes_queued p _ rest rfl]
    simp [State.store, State.received, paramField]; omega
  · simp only [hc, if_false]
    rw [readBytes_queued p _ rest rfl]
    dsimp only
    rw [State.received_received]
    cases he : s.err with
    | none => simp [State.store, State.received, he, paramField]
    | some e => simp [State.store, State.received, he, paramField]

/-- A record beyond the clamp, in full (42_demux.md R164). -/
theorem drainRecord_queued (p rest : List Byte) (s : State) (hp : p.length ≤ 255)
    (h : s.env.rx = paramField p ++ rest) : drainRecord s = s.received (paramField p) rest := by
  unfold drainRecord
  rw [State.rxByte_queued _ (BitVec.ofNat 8 p.length) (p ++ rest) h]
  dsimp only
  rw [length_byte p hp, drain_queued p _ rest rfl, State.received_received]
  rfl

end Sys2Proof.Machine
end

