-- ==== Sys2Proof/Laws/Engine.lean ====
section
/-! SUPPORT. The engine's run: one lemma for each state's rule, the transition table, and the run of a call from any
state (43_command_engine.md R180-R195). -/

namespace Sys2Proof.Machine

/-! ### The run -/

theorem run_idle (k : Nat) (s : State) (h : s.fsm = .idle) : run k s = s := by
  cases k <;> simp [run, h]

theorem run_succ (k : Nat) (s : State) (h : s.fsm ≠ .idle) (h' : (action s).fsm ≠ .acquireBus) :
    run (k + 1) s = run k (action s) := by simp [run, h, h']

/-- A hold stops the run (20_memory.md R70). -/
theorem run_hold (k : Nat) (s : State) (h : s.fsm ≠ .idle) (h' : (action s).fsm = .acquireBus) :
    run (k + 1) s = action s := by simp [run, h, h']

/-- What a run does depends only on the state's rule. -/
theorem resume_congr (x y : State) (hx : x.fsm ≠ .idle) (hy : y.fsm ≠ .idle) (h : action x = action y) :
    resume x = resume y := by
  show run (10 + 1) x = run (10 + 1) y
  simp only [run, hx, hy, h, if_false]

/-! ### The transition table (43_command_engine.md R181) -/

/-- The states that may follow a state. -/
def successors : Fsm → List Fsm
  | .idle => [.idle]
  | .acquireBus => [.acquireBus, .awaitReadyTx]
  | .awaitReadyTx => [.selectTx, .releaseBus]
  | .selectTx => [.sendFrame]
  | .sendFrame => [.deselectTx, .deselectRx]
  | .deselectTx => [.awaitReadyRx]
  | .awaitReadyRx => [.selectRx, .releaseBus]
  | .selectRx => [.receiveFrame]
  | .receiveFrame => [.deselectRx]
  | .deselectRx => [.releaseBus]
  | .releaseBus => [.done, .failed]
  | .done => [.idle]
  | .failed => [.idle]
  | .resetSeq => [.idle]

theorem waitReady_fsm (s : State) : (waitReady s).1.fsm = s.fsm := (waitReady_spec s).1.emits.keeps.fsm

theorem decodeCall_frame (s : State) (b : Byte) (h : s.op = .cmd b) :
    DecodeFrame (decodeMode s.cfg b s.args).capacity s (decodeCall s).1 := by
  unfold decodeCall
  rw [h]
  exact decodeReply_frame _ _ s

theorem decodeCall_keeps (s : State) : Keeps s (decodeCall s).1 := by
  unfold decodeCall
  split
  · exact (decodeReply_frame _ _ s).emits.keeps
  · exact .refl s

theorem settle_fsm (next : Fsm) (r : Ended) :
    (settle next r).fsm = next ∨ (settle next r).fsm = errorExit r.1.fsm := by
  unfold settle
  split
  · exact .inl rfl
  · exact .inr (by rw [State.takeError_frame])

/-- Each state's rule follows the transition table. -/
theorem action_follows (s : State) : (action s).fsm ∈ successors s.fsm := by
  unfold action
  cases h : s.fsm <;> simp only [successors, List.mem_cons, List.not_mem_nil, or_false]
  case idle => exact h
  case acquireBus =>
    unfold actAcquire
    split
    · rw [State.takeBus_frame]; exact .inl h
    · exact .inr rfl
  case awaitReadyTx =>
    rcases settle_fsm .selectTx (waitReady s) with e | e
    · exact .inl e
    · rw [waitReady_fsm, h] at e; exact .inr e
  case selectTx => rfl
  case sendFrame =>
    unfold actSend
    split
    · exact .inl rfl
    · rw [State.takeError_frame, h]; exact .inr rfl
  case deselectTx => rfl
  case awaitReadyRx =>
    rcases settle_fsm .selectRx (waitReady s) with e | e
    · exact .inl e
    · rw [waitReady_fsm, h] at e; exact .inr e
  case selectRx => rfl
  case receiveFrame =>
    rcases settle_fsm .deselectRx ({ (decodeCall s).1 with marker := false }, (decodeCall s).2) with e | e
    · exact e
    · rw [show ({ (decodeCall s).1 with marker := false } : State).fsm = .receiveFrame from
        (decodeCall_keeps s).fsm.trans h] at e
      exact e
  case deselectRx => rfl
  case releaseBus =>
    show outcomeState s.err = .done ∨ outcomeState s.err = .failed
    cases s.err <;> simp [outcomeState]
  case done => rfl
  case failed => unfold State.returnFromError; split <;> rfl
  case resetSeq => rfl

/-- A rule ends in AcquireBus only as a hold there: another holder has the bus, and no event happens (20_memory.md
R70). -/
theorem action_hold (s : State) (h : s.fsm ≠ .idle) (h' : (action s).fsm = .acquireBus) :
    s.fsm = .acquireBus ∧ s.takeBus.1 = true ∧ (action s).trace = s.trace := by
  have hf := action_follows s
  have hs : s.fsm = .acquireBus := by revert hf h; rw [h']; cases s.fsm <;> simp [successors]
  have ha : action s = actAcquire s := by unfold action; rw [hs]
  rw [ha] at h' ⊢
  unfold actAcquire at h' ⊢
  split
  · exact ⟨hs, ‹_›, by rw [State.takeBus_frame]⟩
  · rw [if_neg ‹_›] at h'; simp at h'

/-- How far a state is from the end of its call. -/
def Fsm.rank : Fsm → Nat
  | .idle => 0
  | .done => 1
  | .failed => 1
  | .resetSeq => 1
  | .releaseBus => 2
  | .deselectRx => 3
  | .receiveFrame => 4
  | .selectRx => 5
  | .awaitReadyRx => 6
  | .deselectTx => 7
  | .sendFrame => 8
  | .selectTx => 9
  | .awaitReadyTx => 10
  | .acquireBus => 11

/-- A rule brings the call nearer to its end, or holds in AcquireBus. -/
theorem action_rank (s : State) (h : s.fsm ≠ .idle) (h' : (action s).fsm ≠ .acquireBus) :
    (action s).fsm.rank < s.fsm.rank := by
  have hf := action_follows s
  revert hf h h'
  generalize (action s).fsm = t
  cases s.fsm <;> cases t <;> simp [successors, Fsm.rank]

/-- Enough rules run to the end of the call or to a hold (60_exceptions.md R240). -/
theorem run_ends (k : Nat) : ∀ s : State, s.fsm.rank ≤ k →
    (run k s).fsm = .idle ∨ (run k s).fsm = .acquireBus := by
  induction k with
  | zero => intro s h; left; cases hf : s.fsm <;> simp_all [Fsm.rank, run]
  | succ k ih =>
    intro s h
    by_cases hi : s.fsm = .idle
    · rw [run_idle _ _ hi]; exact .inl hi
    · by_cases ha : (action s).fsm = .acquireBus
      · rw [run_hold _ _ hi ha]; exact .inr ha
      · rw [run_succ _ _ hi ha]
        have := action_rank s hi ha
        exact ih _ (by omega)

/-- A property that every rule keeps is kept by a run. -/
theorem run_keeps {P : State → Prop} (h : ∀ s, s.fsm ≠ .idle → P s → P (action s)) (k : Nat) :
    ∀ s, P s → P (run k s) := by
  induction k with
  | zero => exact fun s hs => hs
  | succ k ih =>
    intro s hs
    by_cases hi : s.fsm = .idle
    · rw [run_idle _ _ hi]; exact hs
    · by_cases ha : (action s).fsm = .acquireBus
      · rw [run_hold _ _ hi ha]; exact h s hi hs
      · rw [run_succ _ _ hi ha]; exact ih _ (h s hi hs)

end Sys2Proof.Machine
end

