-- ==== Sys2Proof/Laws/PerInstr.lean ====
section
/-! SUPPORT. A law of the encoding, made for each instruction: a request's opcode is one of the catalogue with its reply
flag clear, an echo row's byte is such an opcode with the flag set, and ABORT is the level 1 (30_encoding.md R81, R85,
R86). -/

namespace Sys2Proof.Laws

/-- Where an instruction stands in the tables. -/
def EncodingPlace.Statement (i : Instr) : Prop :=
  ∀ errCmd : Byte,
    match encode errCmd i with
    | .request r => r.sel = .resetSeq ∨ ∃ b, r.sel = .cmd b ∧ b ∈ catalogue ∧ b &&& Config.replyFlag = 0
    | .echo b => i = .errCmdReply ∧ b = errCmd ∨ requestOp b ∈ catalogue ∧ b = replyOp b
    | .abort v => i = .abort ∧ v = .high

theorem EncodingPlace.getfwversion (cap : Nat) (t : Option Bound) : EncodingPlace.Statement (.getfwversion cap t) :=
  fun _ => .inr ⟨0x37, rfl, by decide, by decide⟩

theorem EncodingPlace.getconnstatus (t : Option Bound) : EncodingPlace.Statement (.getconnstatus t) :=
  fun _ => .inr ⟨0x20, rfl, by decide, by decide⟩

theorem EncodingPlace.getmacaddr (t : Option Bound) : EncodingPlace.Statement (.getmacaddr t) :=
  fun _ => .inr ⟨0x22, rfl, by decide, by decide⟩

theorem EncodingPlace.startscan (t : Option Bound) : EncodingPlace.Statement (.startscan t) :=
  fun _ => .inr ⟨0x36, rfl, by decide, by decide⟩

theorem EncodingPlace.scannetworks (n : Nat) (t : Option Bound) : EncodingPlace.Statement (.scannetworks n t) :=
  fun _ => .inr ⟨0x27, rfl, by decide, by decide⟩

theorem EncodingPlace.connect (ssid pass : List Byte) (t : Option Bound) :
    EncodingPlace.Statement (.connect ssid pass t) :=
  fun _ => .inr ⟨0x11, rfl, by decide, by decide⟩

theorem EncodingPlace.disconnect (t : Option Bound) : EncodingPlace.Statement (.disconnect t) :=
  fun _ => .inr ⟨0x30, rfl, by decide, by decide⟩

theorem EncodingPlace.getfwversionReply : EncodingPlace.Statement .getfwversionReply :=
  fun _ => .inr ⟨by decide, by decide⟩

theorem EncodingPlace.getconnstatusReply : EncodingPlace.Statement .getconnstatusReply :=
  fun _ => .inr ⟨by decide, by decide⟩

theorem EncodingPlace.getmacaddrReply : EncodingPlace.Statement .getmacaddrReply :=
  fun _ => .inr ⟨by decide, by decide⟩

theorem EncodingPlace.startscanReply : EncodingPlace.Statement .startscanReply :=
  fun _ => .inr ⟨by decide, by decide⟩

theorem EncodingPlace.scannetworksReply : EncodingPlace.Statement .scannetworksReply :=
  fun _ => .inr ⟨by decide, by decide⟩

theorem EncodingPlace.connectReply : EncodingPlace.Statement .connectReply :=
  fun _ => .inr ⟨by decide, by decide⟩

theorem EncodingPlace.disconnectReply : EncodingPlace.Statement .disconnectReply :=
  fun _ => .inr ⟨by decide, by decide⟩

theorem EncodingPlace.errCmdReply : EncodingPlace.Statement .errCmdReply := fun _ => .inl ⟨rfl, rfl⟩

theorem EncodingPlace.resetseq : EncodingPlace.Statement .resetseq := fun _ => .inl rfl

theorem EncodingPlace.abort : EncodingPlace.Statement .abort := fun _ => ⟨rfl, rfl⟩

end Sys2Proof.Laws
end

