-- ==== Sys2Proof/Tests/Slice0.lean ====
section
/-! SUPPORT. Tests on fixed values: the ill-formed terms WellFormed refuses, the words of the encoding tables, vectors of
95_test_vectors.md, and for each obligation with hypotheses a witness that meets them. -/

namespace Sys2Proof.Tests

open Sys2Proof.Machine Sys2Proof.Safety

/-! ### Helpers -/

/-- The reset state, its device answering at once with these bytes. -/
def dev (rx : List Byte) : State :=
  { State.reset with
    env := ⟨[false], [.low, .low], [.low, .low, .low], [], List.replicate 24 0, rx, 0, 0⟩ }

/-- The events after block reset's own. -/
def events : Host.Outcome State Fault Refusal → List Event
  | .next t => t.trace.drop 3
  | _ => []

/-- The results delivered. -/
def results : Host.Outcome State Fault Refusal → List Result
  | .next t => t.results
  | _ => []

/-- The bytes received. -/
def bytesRead (s : State) : Nat := countEvents isExchange s.trace

/-- What a decode shows: the error, the stored values, the bytes it read. -/
def shown (r : Ended) : Option ErrorKind × List (List Byte) × Nat := (r.2, r.1.slots.take r.1.m, bytesRead r.1)

/-- A state of a GETCONNSTATUS call at the entry of an engine state. -/
def midCall (f : Fsm) (rx : List Byte) : State :=
  { dev rx with
    fsm := f, op := .cmd 0x20, args := ⟨[], [], 0, 0, .micros 50000⟩, busHeld := f.holdsBus, cs := f.csLevel,
    slots := [[]] }

/-- A state in which the start marker of the reply to `op` has been read. -/
def atEchoOf (op : Byte) (rx : List Byte) : State :=
  { midCall .receiveFrame rx with
    op := .cmd op, args := ⟨[], [], 8, 6, .micros 50000⟩, marker := true, probe := 1, rxCount := 1 }

/-! ### WellFormed refuses each kind of ill-formed operand -/

theorem test_wellFormed_accepts (ssid pass : List Byte) (h : ssid.length = 255) (h' : pass.length = 255) :
    Instr.wellFormed (.connect ssid pass (some (.micros 0))) = true := by
  simp [Instr.wellFormed, fitsByte, boundFinite, h, h']

theorem test_wellFormed_refuses_cap_256 : Instr.wellFormed (.getfwversion 256 none) = false := by decide

theorem test_wellFormed_refuses_max_records_256 : Instr.wellFormed (.scannetworks 256 none) = false := by decide

theorem test_wellFormed_refuses_long_ssid (ssid : List Byte) (h : ssid.length = 256) :
    Instr.wellFormed (.connect ssid [] none) = false := by
  simp [Instr.wellFormed, fitsByte, h]

theorem test_wellFormed_refuses_long_pass (pass : List Byte) (h : pass.length = 256) :
    Instr.wellFormed (.connect [] pass none) = false := by
  simp [Instr.wellFormed, fitsByte, h]

theorem test_wellFormed_refuses_no_bound :
    Instr.wellFormed (.getconnstatus (some .unbounded)) = false
    ∧ Instr.wellFormed (.getfwversion 0 (some .unbounded)) = false
    ∧ Instr.wellFormed (.getmacaddr (some .unbounded)) = false
    ∧ Instr.wellFormed (.startscan (some .unbounded)) = false
    ∧ Instr.wellFormed (.scannetworks 0 (some .unbounded)) = false
    ∧ Instr.wellFormed (.connect [] [] (some .unbounded)) = false
    ∧ Instr.wellFormed (.disconnect (some .unbounded)) = false := by decide

/-! ### Decoding: the bytes of 30_encoding.md R85 and R86 bit by bit, the selectors of R96 -/

theorem test_decode_request_words :
    decodeTableWord 8 0b00110111 = some (.getfwversion 0 none)
    ∧ decodeTableWord 8 0b00100000 = some (.getconnstatus none)
    ∧ decodeTableWord 8 0b00100010 = some (.getmacaddr none)
    ∧ decodeTableWord 8 0b00110110 = some (.startscan none)
    ∧ decodeTableWord 8 0b00100111 = some (.scannetworks 0 none)
    ∧ decodeTableWord 8 0b00010001 = some (.connect [] [] none)
    ∧ decodeTableWord 8 0b00110000 = some (.disconnect none) := by decide

theorem test_decode_echo_words :
    decodeTableWord 8 0b10110111 = some .getfwversionReply ∧ decodeTableWord 8 0b10100000 = some .getconnstatusReply
    ∧ decodeTableWord 8 0b10100010 = some .getmacaddrReply ∧ decodeTableWord 8 0b10110110 = some .startscanReply
    ∧ decodeTableWord 8 0b10100111 = some .scannetworksReply ∧ decodeTableWord 8 0b10010001 = some .connectReply
    ∧ decodeTableWord 8 0b10110000 = some .disconnectReply ∧ decodeTableWord 8 0b11101111 = some .errCmdReply := by
  decide

theorem test_decode_selectors :
    decode 0xEF (.request ⟨.resetSeq, .none, none⟩) = .ok .resetseq ∧ decode 0xEF (.abort .high) = .ok .abort
    ∧ decode 0xEF (.request ⟨.cmd 0x11, .credentials [0x41] [0x42, 0x43], none⟩)
      = .ok (.connect [0x41] [0x42, 0x43] none)
    ∧ decode 0xEF (.request ⟨.cmd 0x27, .maxRecords 20, some (.micros 50000)⟩)
      = .ok (.scannetworks 20 (some (.micros 50000))) := by decide

theorem test_decode_rejects :
    decode 0xEF (.request ⟨.cmd 0x50, .none, none⟩) = .error (.unknownSelector 0x50)
    ∧ decode 0xEF (.request ⟨.cmd 0xB7, .cap 4, none⟩) = .error (.unknownSelector 0xB7)
    ∧ decode 0xEF (.request ⟨.cmd 0x37, .none, none⟩) = .error (.argumentShape 0x37)
    ∧ decode 0xEF (.echo 0x37) = .error (.unknownEcho 0x37) ∧ decode 0xEF (.abort .low) = .error .abortNotAsserted
    ∧ decodeTableWord 16 0x37 = none := by decide

/-! ### Encode: vectors EN7, EN13, EN14, EN16, EN17 and EN18 -/

theorem test_encode_scenario_2 :
    encodeFrame 0x11 [[0x52, 0x49, 0x4F, 0x54, 0x5F, 0x41, 0x50], [0x53, 0x65, 0x63, 0x72, 0x33, 0x74, 0x50, 0x57]]
      = .ok [0xE0, 0x11, 0x02, 0x07, 0x52, 0x49, 0x4F, 0x54, 0x5F, 0x41, 0x50, 0x08, 0x53, 0x65, 0x63, 0x72, 0x33,
          0x74, 0x50, 0x57, 0xEE, 0xFF, 0xFF, 0xFF] := by rfl

theorem test_encode_vectors :
    encodeFrame 0xB7 [[]] = .ok [0xE0, 0x37, 0x01, 0x00, 0xEE, 0xFF, 0xFF, 0xFF]
    ∧ encodeFrame 0x11 (List.replicate 7 []) = .ok [0xE0, 0x11, 7, 0, 0, 0, 0, 0, 0, 0, 0xEE, 0xFF]
    ∧ encodeFrame 0x11 [[], [0xFF]] = .ok [0xE0, 0x11, 0x02, 0x00, 0x01, 0xFF, 0xEE, 0xFF]
    ∧ encodeFrame 0x11 [[0xE0], [0xEE]] = .ok [0xE0, 0x11, 0x02, 0x01, 0xE0, 0x01, 0xEE, 0xEE]
    ∧ encodeFrame 0x11 (List.replicate 8 []) = .error .argumentOutOfRange := by refine ⟨?_, ?_, ?_, ?_, ?_⟩ <;> rfl

/-! ### Decode: vectors DS6, DS12 to DS14, DS17, DS21, DS22, DS25; DL3, DL5, DL7, DL13 -/

/-- 33 bytes, one more than the instance's SSID_MAX_LEN. -/
def long : List Byte := List.replicate 33 0x61

theorem test_single_vectors :
    shown (decodeSingle 0x20 1 (some 1) { dev [0xE0, 0xEF, 0x12, 0x34] with trace := [] }) = (some .deviceErrorReply, [], 4)
    ∧ shown (decodeSingle 0x20 1 (some 1) { dev [0xE0, 0xA0, 1, 2, 3, 4, 0] with trace := [] })
      = (some .bufferTooSmall, [], 7)
    ∧ shown (decodeSingle 0x20 1 (some 1) { dev [0xE0, 0xA0, 1, 0, 0xEE] with trace := [] }) = (some .shortValue, [], 5)
    ∧ shown (decodeSingle 0x37 8 none { dev [0xE0, 0xB7, 1, 3, 0xE0, 0xEE, 0xFF, 0xEE] with trace := [] })
      = (none, [[0xE0, 0xEE, 0xFF]], 8) := by decide

theorem test_list_vectors :
    shown (decodeList 0x27 2 32 { dev [0xE0, 0xA7, 3, 1, 0x41, 1, 0x42, 1, 0x43, 0xEE] with trace := [] })
      = (none, [[0x41], [0x42]], 10)
    ∧ shown (decodeList 0x27 0 32 { dev [0xE0, 0xA7, 2, 1, 0x41, 1, 0x42, 0xEE] with trace := [] }) = (none, [], 8)
    ∧ shown (decodeList 0x27 1 32 { dev ([0xE0, 0xA7, 2, 1, 0x41, 33] ++ long ++ [0xEE]) with trace := [] })
      = (none, [[0x41]], 40) := by decide

theorem test_list_too_long_record :
    (decodeList 0x27 6 32 (dev ([0xE0, 0xA7, 1, 33] ++ long ++ [0x00]))).2 = some .bufferTooSmall := by decide

/-! ### Calls: E1, E2, S1, DS18, S5's clamp, and each instruction's result -/

theorem test_getconnstatus_trace : events (exec (.getconnstatus none) (dev [0xE0, 0xA0, 0x01, 0x01, 0x03, 0xEE])) =
    [.req ⟨.cmd 0x20, .none, none⟩, .acq, .tstart, .abt .low, .read .ready .low, .clr .cs, .x 0xE0 0, .x 0x20 0,
      .x 0x00 0, .x 0xEE 0, .set .cs, .dly 1, .tstart, .abt .low, .read .ready .low, .clr .cs, .abt .low,
      .x 0xFF 0xE0, .x 0xFF 0xA0, .x 0xFF 0x01, .x 0xFF 0x01, .x 0xFF 0x03, .x 0xFF 0xEE, .set .cs, .dly 1, .rel,
      .resp (.ok (.status 0x03))] := by decide

theorem test_getfwversion : results (exec (.getfwversion 8 none)
    (dev [0xE0, 0xB7, 0x01, 0x05, 0x76, 0x31, 0x2E, 0x32, 0x2E, 0xEE])) = [.ok (.bytes [0x76, 0x31, 0x2E, 0x32, 0x2E])] := by
  decide

theorem test_getmacaddr : results (exec (.getmacaddr none)
    (dev [0xE0, 0xA2, 0x01, 0x06, 0x11, 0x22, 0x33, 0x44, 0x55, 0x66, 0xEE]))
      = [.ok (.bytes [0x11, 0x22, 0x33, 0x44, 0x55, 0x66])] := by decide

theorem test_startscan : results (exec (.startscan none) (dev [0xE0, 0xB6, 0x01, 0x01, 0x01, 0xEE]))
    = [.ok (.status 0x01)] := by decide

theorem test_scannetworks : results (exec (.scannetworks 2 none)
    (dev [0xE0, 0xA7, 0x03, 0x01, 0x41, 0x01, 0x42, 0x01, 0x43, 0xEE]))
      = [.ok (.scan [[0x41], [0x42]] 2 true)] := by decide

theorem test_connect_frame : (events (exec (.connect [] [] none) (dev [0xE0, 0x91, 0x01, 0x01, 0x01, 0xEE]))).drop 6
    = [.x 0xE0 0, .x 0x11 0, .x 0x02 0, .x 0x00 0, .x 0x00 0, .x 0xEE 0, .x 0xFF 0, .x 0xFF 0, .set .cs, .dly 1,
      .tstart, .abt .low, .read .ready .low, .clr .cs, .abt .low, .x 0xFF 0xE0, .x 0xFF 0x91, .x 0xFF 0x01,
      .x 0xFF 0x01, .x 0xFF 0x01, .x 0xFF 0xEE, .set .cs, .dly 1, .rel, .resp (.ok (.status 0x01))] := by decide

theorem test_connect_long_ssid : events (exec (.connect long [] none) (dev []))
    = [.req ⟨.cmd 0x11, .credentials long [], none⟩, .resp (.err .argumentOutOfRange)] := by decide

theorem test_disconnect : results (exec (.disconnect none) (dev [0xE0, 0xB0, 0x01, 0x01, 0x00, 0xEE]))
    = [.ok (.status 0x00)] := by decide

theorem test_resetseq : events (exec .resetseq (dev [])) =
    [.req ⟨.resetSeq, .none, none⟩, .init .boot .out, .set .boot, .set .cs, .init .reset .out, .clr .reset, .dly 10000,
      .set .reset, .dly 750000, .init .boot (.inPull .up), .resp (.ok .unit)] := by decide

/-- The example of 43_command_engine.md R208. -/
theorem test_abort_level_held : events (exec (.getconnstatus none)
    { dev [] with env := { (dev []).env with abort := [.high] } })
      = [.req ⟨.cmd 0x20, .none, none⟩, .acq, .tstart, .abt .high, .rel, .resp (.err .cancelled)] := by decide

theorem test_abort_in_the_hunt : events (exec .abort (midCall .receiveFrame []))
    = [.abt .high, .set .cs, .dly 1, .rel, .resp (.err .cancelled)] := by decide

/-- Scenario 4's echo, by the row of another command. -/
theorem test_other_echo : events (exec .getconnstatusReply (atEchoOf 0x37 []))
    = [.x 0xFF 0xA0, .set .cs, .dly 1, .rel, .resp (.err .unexpectedCommandEcho)] := by decide

theorem test_single_echo_rows :
    results (exec .getfwversionReply (atEchoOf 0x37 [1, 2, 0x76, 0x31, 0xEE])) = [.ok (.bytes [0x76, 0x31])]
    ∧ results (exec .getconnstatusReply (atEchoOf 0x20 [1, 1, 3, 0xEE])) = [.ok (.status 3)]
    ∧ results (exec .getmacaddrReply (atEchoOf 0x22 [1, 6, 1, 2, 3, 4, 5, 6, 0xEE])) = [.ok (.bytes [1, 2, 3, 4, 5, 6])]
    ∧ results (exec .startscanReply (atEchoOf 0x36 [1, 1, 1, 0xEE])) = [.ok (.status 1)]
    ∧ results (exec .connectReply (atEchoOf 0x11 [1, 1, 2, 0xEF])) = [.err .missingTerminator]
    ∧ results (exec .disconnectReply (atEchoOf 0x30 [0, 0xEE])) = [.err .paramCountMismatch] := by decide

theorem test_scan_and_error_echo_rows :
    results (exec .scannetworksReply (atEchoOf 0x27 [1, 1, 0x41, 0xEE])) = [.ok (.scan [[0x41]] 1 false)]
    ∧ results (exec .errCmdReply (atEchoOf 0x27 [0x12, 0x34])) = [.err .deviceErrorReply] := by decide

/-! ### The ready wait: vectors H2, H4, H5 and H6 -/

/-- A wait's events and its outcome. -/
def waited (abort ready : List Level) (falses : Nat) : List Event × Option ErrorKind :=
  let r := waitReady { State.reset with trace := [], env := ⟨[], ready, abort, [falses], [], [], 0, 0⟩ }
  (r.1.trace, r.2)

theorem test_wait_vectors :
    waited [.low, .low, .low] [.high, .high, .low] 2
      = ([.tstart, .abt .low, .read .ready .high, .texp false, .abt .low, .read .ready .high, .texp false, .abt .low,
          .read .ready .low], none)
    ∧ waited [.low, .low] [.high, .low] 1
      = ([.tstart, .abt .low, .read .ready .high, .texp false, .abt .low, .read .ready .low], none)
    ∧ waited [.low] [.high] 0 = ([.tstart, .abt .low, .read .ready .high, .texp true], some .handshakeTimeout)
    ∧ waited [.low, .high] [.high, .low] 1
      = ([.tstart, .abt .low, .read .ready .high, .texp false, .abt .high], some .cancelled) := by decide

/-! ### Witnesses: concrete states and operands that meet the hypotheses of the statements, clause by clause -/

theorem witness_DecodeOfEncode : ∀ b, encode 0xEF .getfwversionReply = .echo b →
    Instr.getfwversionReply ≠ .errCmdReply → b ≠ 0xEF := by
  intro b h _
  cases h
  decide

theorem witness_EachCodeHasOneMeaning : decode 0xEF (.echo 0xA7) = .ok .scannetworksReply
    ∧ decode 0xEF (.request ⟨.resetSeq, .cap 1, none⟩) = .ok .resetseq := by decide

theorem witness_EncodeRefuses :
    ((List.replicate 7 (List.replicate 255 (0 : Byte))).length ≤ 7
      ∧ ∀ p ∈ List.replicate 7 (List.replicate 255 (0 : Byte)), p.length ≤ 255)
    ∧ ¬((List.replicate 8 ([] : List Byte)).length ≤ 7 ∧ ∀ p ∈ List.replicate 8 ([] : List Byte), p.length ≤ 255)
    ∧ ¬([List.replicate 256 (0 : Byte)].length ≤ 7 ∧ ∀ p ∈ [List.replicate 256 (0 : Byte)], p.length ≤ 255)
    ∧ argsOk Cfg.vectors 0x11 ⟨.cmd 0x11, .credentials [] [], none⟩ = true := by
  refine ⟨⟨?_, fun p hp => ?_⟩, fun h => ?_, fun h => ?_, by decide⟩
  · rw [List.length_replicate]
  · rw [List.eq_of_mem_replicate hp, List.length_replicate]
  · exact absurd h.1 (by rw [List.length_replicate]; omega)
  · exact absurd (h.2 _ (List.mem_singleton.mpr rfl)) (by rw [List.length_replicate]; omega)

theorem witness_RequestFrame : encodeFrame 0x11 [[0x41, 0x42, 0x43], [0x78]]
      = .ok [0xE0, 0x11, 0x02, 0x03, 0x41, 0x42, 0x43, 0x01, 0x78, 0xEE, 0xFF, 0xFF]
    ∧ encodeFrame 0x37 [] = .ok [0xE0, 0x37, 0x00, 0xEE] := by constructor <;> rfl

/-- The round trip with two parameters in List mode, and with one in Single mode, RX_PAD on and off. -/
theorem witness_RoundTrip :
    (encodeFrame 0x27 [[0x41], []] = .ok [0xE0, 0x27, 2, 1, 0x41, 0, 0xEE, 0xFF]
      ∧ Cfg.inRange Cfg.vectors = true ∧ Cfg.vectors.errCmd ≠ replyOp 0x27
      ∧ fillerCount Cfg.vectors (0 + 7) = 0
      ∧ (dev [0xE0, 0xA7, 2, 1, 0x41, 0, 0xEE]).env.rx
        = ([0xE0, 0x27, 2, 1, 0x41, 0, 0xEE, 0xFF].take 7).set 1 (0x27 ||| 0x80) ++ [] ++ []
      ∧ (dev []).env.abort = .low :: [.low, .low] ∧ (dev []).marker = false ∧ (dev []).err = none
      ∧ [[0x41], ([] : List Byte)].length ≤ 2 ∧ ∀ p ∈ [[(0x41 : Byte)], []], p.length ≤ 1)
    ∧ (encodeFrame 0x20 [[0x03]] = .ok [0xE0, 0x20, 1, 1, 3, 0xEE, 0xFF, 0xFF]
      ∧ fillerCount { Cfg.vectors with rxPad := true } (0 + 6) = [(0xFF : Byte), 0xFF].length
      ∧ [(0x03 : Byte)].length ≤ 1) := by
  refine ⟨⟨rfl, by decide, by decide, by decide, by decide, by decide, by decide, by decide, by decide, by decide⟩,
    rfl, by decide, by decide⟩

/-- The hunt with a limit of 2 probes, at each clause's boundaries; the clauses exclude each other by the byte after
the junk or by the ABORT samples. -/
def hunting (ab : List Level) (rx : List Byte) : State :=
  { State.reset with
    cfg := { Cfg.vectors with probeLimit := 2 }, env := { Env.free with abort := ab, rx := rx } }

theorem witness_MarkerHunt_finds :
    (([] : List Byte).length < (hunting [Level.low] [0xE0]).cfg.probeLimit
      ∧ (hunting [Level.low] [0xE0]).env.abort = List.replicate (0 + 1) Level.low ++ []
      ∧ (hunting [Level.low] [0xE0]).env.rx = ([] : List Byte) ++ 0xE0 :: [])
    ∧ ([(0 : Byte)].length < (hunting [Level.low, Level.low] [0, 0xE0]).cfg.probeLimit
      ∧ (hunting [Level.low, Level.low] [0, 0xE0]).env.abort = List.replicate (1 + 1) Level.low ++ []
      ∧ (hunting [Level.low, Level.low] [0, 0xE0]).env.rx = [(0 : Byte)] ++ 0xE0 :: []) := by decide

theorem witness_MarkerHunt_fails :
    [(0 : Byte), 1].length = (hunting [Level.low, Level.low, Level.low] [0, 1, 0xE0]).cfg.probeLimit
    ∧ (hunting [Level.low, Level.low, Level.low] [0, 1, 0xE0]).env.abort = List.replicate (2 + 1) Level.low ++ []
    ∧ (hunting [Level.low, Level.low, Level.low] [0, 1, 0xE0]).env.rx = [(0 : Byte), 1] ++ [0xE0]
    ∧ (hunting [] []).marker = false ∧ (∀ b ∈ [(0 : Byte), 1], b ≠ 0xE0) := by decide

theorem witness_MarkerHunt_is_cancelled :
    ([(0 : Byte), 1].length ≤ (hunting [Level.low, Level.low, Level.high] [0, 1]).cfg.probeLimit
      ∧ (hunting [Level.low, Level.low, Level.high] [0, 1]).env.abort = List.replicate 2 Level.low ++ Level.high :: []
      ∧ (hunting [Level.low, Level.low, Level.high] [0, 1]).env.rx = [(0 : Byte), 1] ++ [])
    ∧ (hunting [Level.high] [0xE0]).env.abort = List.replicate 0 Level.low ++ Level.high :: [] := by decide

/-- The sentinel, also as the echo's own byte (00_scope.md R8), with and without receive padding. -/
theorem witness_ErrorSentinel :
    (dev [0xEF, 0x12, 0x34]).env.rx = (dev []).cfg.errCmd :: 0x12 :: 0x34 :: ([] ++ [])
    ∧ fillerCount (dev []).cfg (0 + 3) = ([] : List Byte).length ∧ replyOp 0x6F = (dev []).cfg.errCmd
    ∧ fillerCount { Cfg.vectors with rxPad := true } (2 + 3) = [(0 : Byte), 0, 0].length := by decide

theorem witness_Echo : (0xB7 : Byte) ≠ (dev [0xB7]).cfg.errCmd ∧ (dev [0xB7]).env.rx = 0xB7 :: []
    ∧ (0x37 : Byte) ≠ (dev [0x37]).cfg.errCmd := by decide

theorem witness_SingleCount : (dev [0, 1]).env.rx = 0 :: [1] ∧ (dev [1]).env.rx = 1 :: [] := by decide

/-- A value that fits exactly, one too long, one too short, each with a wrong terminator as well. -/
theorem witness_SingleValue :
    (dev []).err = none ∧ [(3 : Byte)].length = (1 : Byte).toNat
    ∧ fillerCount (dev []).cfg (0 + (3 + [(3 : Byte)].length)) = ([] : List Byte).length
    ∧ (dev [1, 1, 3, 0xEE]).env.rx = 1 :: 1 :: ([3] ++ 0xEE :: ([] ++ []))
    ∧ (dev [1, 2, 3, 4, 0]).env.rx = 1 :: 2 :: ([3, 4] ++ 0 :: ([] ++ [])) ∧ 1 < [(3 : Byte), 4].length
    ∧ (dev [1, 0, 0]).env.rx = 1 :: 0 :: ([] ++ 0 :: ([] ++ [])) ∧ ([] : List Byte).length < (some 1).getD 0 := by decide

/-- No record, two records of which one is beyond the clamp, one record too long. -/
theorem witness_ListRecords :
    (dev []).err = none
    ∧ (dev [0, 0xEE]).env.rx
      = (BitVec.ofNat 8 ([] : List (List Byte)).length :: (([] : List (List Byte)).flatMap paramField ++ [0xEE])) ++ [] ++ []
    ∧ (dev [2, 1, 0x41, 1, 0x42, 0xEE]).env.rx
      = (BitVec.ofNat 8 2 :: ([[0x41], [0x42]].flatMap paramField ++ [0xEE])) ++ [] ++ []
    ∧ (∀ p ∈ [[(0x41 : Byte)], [0x42]].take (min 2 1), p.length ≤ 1)
    ∧ ([[(0x41 : Byte), 0x42], []].take (min 2 2)).takeWhile (fun p => decide (p.length ≤ 1)) = []
    ∧ fillerCount (dev []).cfg (0 + 6) = ([] : List Byte).length := by decide

/-- A list decode with room for its three records succeeds, and 2 is a smaller capacity. -/
theorem witness_SmallerCapacity :
    let r := decodeList 0x27 3 32 (dev [0xE0, 0xA7, 3, 1, 0x41, 1, 0x42, 1, 0x43, 0xEE])
    r.2 = none ∧ r.1.n.toNat = 3 ∧ 2 < r.1.n.toNat := by decide

theorem witness_ListSlots : (dev []).marker = false := by decide

theorem witness_ReceivePadding : (dev []).cfg.rxPad = false
    ∧ ({ dev [] with cfg := { Cfg.vectors with rxPad := true } } : State).cfg.rxPad = true := by decide

/-- A state inside a call, at the entry of each engine state a call passes through, is sound. -/
theorem midCall_sound (f : Fsm) (h : f ≠ .failed) (rx : List Byte) : Sound (midCall f rx) where
  config := rfl
  bus := rfl
  chipSelect := rfl
  accepted := fun _ => ⟨0x20, rfl, rfl, rfl, by simp [midCall], by simp [midCall]⟩
  errNone := fun _ => rfl
  errSome := fun e => absurd e h
  markerPlace := fun e => by simp [midCall, dev, State.reset, State.blockReset] at e
  txAligned := by simp [midCall, dev, State.reset, State.blockReset]
  probeBound := Nat.zero_le _
  countBound := Nat.zero_le _
  slotBound := by simp [midCall]

/-- Sound states inside a call, and the runs from an active and from an inactive line. -/
theorem witness_SelectAndDeselect :
    Cfg.inRange Cfg.vectors = true ∧ Sound (midCall .selectTx []) ∧ Sound (midCall .selectRx [])
    ∧ Sound (midCall .deselectTx []) ∧ Sound (midCall .deselectRx []) ∧ Sound (midCall .idle [])
    ∧ (midCall .deselectRx []).fsm ≠ .resetSeq ∧ (midCall .deselectRx []).cs = .low
    ∧ (resume (midCall .deselectRx [])).trace
      = (midCall .deselectRx []).trace ++ [.set .cs, .dly 1, .rel, .resp (.ok (.bytes []))]
    ∧ (midCall .idle []).cs = .high ∧ (call ⟨.cmd 0x50, .none, none⟩ (midCall .idle [])).trace
      = (midCall .idle []).trace ++ [.req ⟨.cmd 0x50, .none, none⟩, .resp (.err .argumentOutOfRange)] :=
  ⟨by decide, midCall_sound _ (by decide) _, midCall_sound _ (by decide) _, midCall_sound _ (by decide) _,
    midCall_sound _ (by decide) _, midCall_sound _ (by decide) _, by decide, by decide, by decide, by decide, by decide⟩

/-- A ready wait's answers, for each clause at j = 0 and at j = p. -/
def waiting (ab ready : List Level) (p : Nat) : State :=
  { State.reset with env := { Env.free with abort := ab, ready := ready, polls := [p] } }

theorem witness_ReadyWait_returns :
    ((waiting [Level.low] [Level.low] 0).env.abort = List.replicate (0 + 1) Level.low ++ []
      ∧ (waiting [Level.low] [Level.low] 0).env.ready = List.replicate 0 Level.high ++ Level.low :: []
      ∧ (waiting [Level.low] [Level.low] 0).env.polls = 0 :: [] ∧ 0 ≤ 0)
    ∧ ((waiting [Level.low, Level.low] [Level.high, Level.low] 1).env.abort = List.replicate (1 + 1) Level.low ++ []
      ∧ (waiting [Level.low, Level.low] [Level.high, Level.low] 1).env.ready
        = List.replicate 1 Level.high ++ Level.low :: []) := by decide

theorem witness_ReadyWait_times_out :
    ((waiting [Level.low] [Level.high] 0).env.abort = List.replicate (0 + 1) Level.low ++ []
      ∧ (waiting [Level.low] [Level.high] 0).env.ready = List.replicate (0 + 1) Level.high ++ [])
    ∧ ((waiting [Level.low, Level.low] [Level.high, Level.high] 1).env.abort = List.replicate (1 + 1) Level.low ++ []
      ∧ (waiting [Level.low, Level.low] [Level.high, Level.high] 1).env.ready
        = List.replicate (1 + 1) Level.high ++ []) := by decide

theorem witness_ReadyWait_is_cancelled :
    ((waiting [Level.high] [Level.low] 0).env.abort = List.replicate 0 Level.low ++ Level.high :: []
      ∧ (waiting [Level.high] [Level.low] 0).env.ready = List.replicate 0 Level.high ++ [Level.low])
    ∧ ((waiting [Level.low, Level.high] [Level.high] 1).env.abort = List.replicate 1 Level.low ++ Level.high :: []
      ∧ (waiting [Level.low, Level.high] [Level.high] 1).env.ready = List.replicate 1 Level.high ++ []) := by decide

/-- The reset state with one request presented. -/
def requested (r : Request) : State := { dev [0xE0, 0xA0, 1, 1, 3, 0xEE] with requests := [r] }

theorem witness_StepRuns :
    (Cfg.inRange (dev []).cfg = true
      ∧ (requested ⟨.cmd 0x20, .none, none⟩).fsm = .idle
      ∧ (requested ⟨.cmd 0x20, .none, none⟩).requests = ⟨.cmd 0x20, .none, none⟩ :: []
      ∧ decodeRequest ⟨.cmd 0x20, .none, none⟩ = .ok (.getconnstatus none))
    ∧ ((atEchoOf 0x27 [0xA7]).atEcho = true ∧ (atEchoOf 0x27 [0xA7]).env.rx = 0xA7 :: []
      ∧ decodeEcho (atEchoOf 0x27 [0xA7]).cfg.errCmd 0xA7 = .ok .scannetworksReply)
    ∧ (({ midCall .awaitReadyTx [] with env := { Env.free with abort := [.high] } } : State).suspended = true
      ∧ ({ midCall .awaitReadyTx [] with env := { Env.free with abort := [.high] } } : State).env.abort = .high :: [])
    ∧ fetch (midCall .selectTx []) = none := by
  refine ⟨by decide, by decide, by decide, rfl⟩

theorem witness_StepInsideACall : Cfg.inRange (midCall .awaitReadyTx []).cfg = true
    ∧ (midCall .awaitReadyTx []).fsm ≠ .idle ∧ (midCall .awaitReadyTx []).op = .cmd 0x20 := by decide

theorem witness_BadConfiguration : Cfg.inRange Cfg.vectors = true
    ∧ Cfg.inRange { Cfg.vectors with listCap := 1 } = true ∧ Cfg.inRange { Cfg.vectors with listCap := 255 } = true
    ∧ Cfg.inRange { Cfg.vectors with listCap := 0 } = false ∧ Cfg.inRange { Cfg.vectors with listCap := 256 } = false
    ∧ Cfg.inRange { Cfg.vectors with probeLimit := 99 } = false := by decide

/-- A sound state that steps, and an instruction that runs in it. -/
theorem witness_Soundness : Sound (midCall .idle []) ∧ step (midCall .idle []) = .next (midCall .idle [])
    ∧ ∃ t, exec .resetseq (midCall .idle []) = .next t :=
  ⟨midCall_sound _ (by decide) _, rfl, _, rfl⟩

/-- A sound state at the entry of every engine state inside a call, and one in Failed with its error. -/
theorem witness_EngineStates : (∀ f : Fsm, f ≠ .failed → Sound (midCall f [])) ∧ (midCall .acquireBus []).fsm ≠ .idle
    ∧ Sound { midCall .failed [] with err := some .framingError } :=
  ⟨fun f h => midCall_sound f h [], by decide,
    { config := rfl, bus := rfl, chipSelect := rfl, accepted := by simp [midCall, inWireCall],
      errNone := by simp [midCall, errClear], errSome := by simp,
      markerPlace := by simp [midCall, dev, State.reset, State.blockReset],
      txAligned := by simp [midCall, dev, State.reset, State.blockReset],
      probeBound := Nat.zero_le _, countBound := Nat.zero_le _, slotBound := by simp [midCall] }⟩

/-- A call that has held in AcquireBus: still held by another, and free with ABORT at 1, where it runs to its end. -/
theorem witness_HeldCall :
    ((midCall .acquireBus []).fsm = .acquireBus ∧ (midCall .acquireBus []).busHeld = false
      ∧ (midCall .acquireBus []).cs = .high ∧ (midCall .acquireBus []).err = none)
    ∧ acceptedCall (midCall .acquireBus [])
    ∧ (let s := { midCall .acquireBus [] with env := { Env.free with bus := [true] } }
      (resume s).trace = s.trace ++ [])
    ∧ (let s := { midCall .acquireBus [] with env := { Env.free with bus := [false], abort := [.high] } }
      (resume s).trace = s.trace ++ [.acq, .tstart, .abt .high, .rel, .resp (.err .cancelled)]) :=
  ⟨by decide, ⟨0x20, rfl, rfl, rfl, by simp [midCall], by simp [midCall]⟩, by decide, by decide⟩

/-- The hypotheses on a call: Idle, the bus not held, chip-select inactive, and no other holder. -/
theorem witness_Call : (dev []).fsm = .idle ∧ (dev []).busHeld = false ∧ (dev []).cs = .high
    ∧ (dev []).takeBus.1 = false ∧ (call ⟨.resetSeq, .none, none⟩ (dev [])).trace
      = (dev []).trace ++ .req ⟨.resetSeq, .none, none⟩ :: (resetTrace Cfg.vectors ++ [.resp (.ok .unit)]) := by decide

theorem witness_EveryCallEnds : (resume (midCall .idle [])).fsm = .idle
    ∧ (midCall .acquireBus []).fsm = .acquireBus
    ∧ (resume { midCall .acquireBus [] with env := { Env.free with bus := [true] } }).fsm = .acquireBus := by decide

theorem witness_BadSelectorOrArguments :
    ((0x30 : Byte) ∈ [(0x37 : Byte), 0x20, 0x22, 0x36, 0x27, 0x11, 0x30]
      ∧ argsOk Cfg.vectors 0x30 ⟨.cmd 0x30, .none, none⟩ = true)
    ∧ ¬((0x50 : Byte) ∈ [(0x37 : Byte), 0x20, 0x22, 0x36, 0x27, 0x11, 0x30]
      ∧ argsOk Cfg.vectors 0x50 ⟨.cmd 0x50, .none, none⟩ = true)
    ∧ ¬((0x37 : Byte) ∈ [(0x37 : Byte), 0x20, 0x22, 0x36, 0x27, 0x11, 0x30]
      ∧ argsOk Cfg.vectors 0x37 ⟨.cmd 0x37, .cap 256, none⟩ = true) := by decide

/-- Each bound met exactly, and missed by one. -/
theorem witness_ArgumentCheck : Cfg.inRange Cfg.vectors = true
    ∧ argsOk Cfg.vectors 0x11 ⟨.cmd 0x11, .credentials (List.replicate 32 0) [], some (.micros 0)⟩ = true
    ∧ argsOk Cfg.vectors 0x11 ⟨.cmd 0x11, .credentials (List.replicate 33 0) [], some (.micros 0)⟩ = false
    ∧ argsOk Cfg.vectors 0x27 ⟨.cmd 0x27, .maxRecords 255, none⟩ = true
    ∧ (0x30 : Byte) ∈ [(0x20 : Byte), 0x22, 0x36, 0x30] := by decide

theorem witness_UnlistedRequest : (requested ⟨.cmd 0x50, .none, none⟩).fsm = .idle
    ∧ (requested ⟨.cmd 0x50, .none, none⟩).requests = ⟨.cmd 0x50, .none, none⟩ :: []
    ∧ decodeRequest ⟨.cmd 0x50, .none, none⟩ = .error (.unknownSelector 0x50)
    ∧ decodeRequest ⟨.cmd 0x37, .none, none⟩ = .error (.argumentShape 0x37) := by decide

theorem witness_RequestOutsideIdle : (midCall .selectTx []).fsm ≠ .idle := by decide

theorem witness_AcquireHolds :
    ({ midCall .acquireBus [] with env := { Env.free with bus := [true] } } : State).env.bus = true :: []
    ∧ Cfg.inRange (midCall .acquireBus []).cfg = true ∧ (midCall .acquireBus []).fsm = .acquireBus := by decide

theorem witness_ErrorExit :
    (Sound (midCall .awaitReadyTx []) ∧ Sound (midCall .awaitReadyRx []) ∧ Sound (midCall .receiveFrame [0xE0, 0x21]))
    ∧ (decodeCall (midCall .receiveFrame [0xE0, 0x21])).2 = some .unexpectedCommandEcho
    ∧ (waitReady { midCall .awaitReadyRx [] with env := { Env.free with abort := [.high] } }).2 = some .cancelled :=
  ⟨⟨midCall_sound _ (by decide) _, midCall_sound _ (by decide) _, midCall_sound _ (by decide) _⟩,
    by decide, by decide⟩

theorem witness_FirstError : (dev []).err = none
    ∧ ({ dev [] with err := some .bufferTooSmall } : State).err = some .bufferTooSmall := by decide

theorem witness_Failed :
    ({ midCall .failed [] with err := some .framingError } : State).fsm = .failed
    ∧ ({ midCall .failed [] with err := some .framingError } : State).err = some .framingError
    ∧ (midCall .idle []).fsm = .idle ∧ known 0x20 = true
    ∧ argsOk (midCall .idle []).cfg 0x20 ⟨.cmd 0x20, .none, none⟩ = true := by decide

/-- An exchange offered in full: the request, its frame, the device's bytes. -/
def offer (r : Request) (frame reply : List Byte) : Exchange := ⟨r, frame, List.replicate frame.length 0, reply, []⟩

/-- The reset state, offered that exchange. -/
def offered (x : Exchange) : State :=
  { State.reset with env := ⟨[false], [.low, .low], [.low, .low, .low], [], x.answers, x.reply, 0, 0⟩ }

theorem offered_holds (r : Request) (frame reply : List Byte) :
    Offered (offered (offer r frame reply)) (offer r frame reply) { Env.free with timers := 2 } where
  idle := rfl
  noMarker := rfl
  bus := rfl
  ready := rfl
  abort := rfl
  polls := rfl
  tx := by simp [offered, Env.free]
  rx := by simp [offered, offer, Env.free]
  tick := rfl
  timers := rfl
  answers := by simp [offer]
  filler := rfl

theorem witness_StatusOperations :
    (Instr.disconnect none = .getconnstatus none ∧ (0x30 : Byte) = 0x20 ∨ Instr.disconnect none = .startscan none
        ∧ (0x30 : Byte) = 0x36 ∨ Instr.disconnect none = .disconnect none ∧ (0x30 : Byte) = 0x30)
    ∧ Cfg.inRange Cfg.vectors = true ∧ boundFinite none = true ∧ Cfg.vectors.errCmd ≠ replyOp 0x30
    ∧ Offered (offered (offer ⟨.cmd 0x30, .none, none⟩ [0xE0, 0x30, 0x00, 0xEE] (singleReply 0x30 [0])))
      (offer ⟨.cmd 0x30, .none, none⟩ [0xE0, 0x30, 0x00, 0xEE] (singleReply 0x30 [0])) { Env.free with timers := 2 } :=
  ⟨.inr (.inr ⟨rfl, rfl⟩), by decide, by decide, by decide, offered_holds _ _ _⟩

theorem witness_VersionOperation : Cfg.vectors.errCmd ≠ 0xB7 ∧ [(0x76 : Byte)].length ≤ 1 ∧ 1 ≤ 255
    ∧ Offered (offered (offer ⟨.cmd 0x37, .cap 1, none⟩ [0xE0, 0x37, 0x00, 0xEE] (singleReply 0x37 [0x76])))
      (offer ⟨.cmd 0x37, .cap 1, none⟩ [0xE0, 0x37, 0x00, 0xEE] (singleReply 0x37 [0x76]))
      { Env.free with timers := 2 } := ⟨by decide, by decide, by decide, offered_holds _ _ _⟩

theorem witness_MacOperation : Cfg.vectors.errCmd ≠ 0xA2 ∧ [(1 : Byte), 2, 3, 4, 5, 6].length = Cfg.vectors.macLen
    ∧ Offered (offered (offer ⟨.cmd 0x22, .none, none⟩ [0xE0, 0x22, 0x00, 0xEE] (singleReply 0x22 [1, 2, 3, 4, 5, 6])))
      (offer ⟨.cmd 0x22, .none, none⟩ [0xE0, 0x22, 0x00, 0xEE] (singleReply 0x22 [1, 2, 3, 4, 5, 6]))
      { Env.free with timers := 2 } := ⟨by decide, by decide, offered_holds _ _ _⟩

theorem witness_ScanOperation : Cfg.vectors.errCmd ≠ 0xA7 ∧ 1 ≤ 255 ∧ [[(0x41 : Byte)], long].length ≤ 255
    ∧ (∀ p ∈ [[(0x41 : Byte)], long], p.length ≤ 255)
    ∧ (∀ p ∈ [[(0x41 : Byte)], long].take (min 2 (min 1 Cfg.vectors.listCap)), p.length ≤ Cfg.vectors.ssidMax)
    ∧ Offered (offered (offer ⟨.cmd 0x27, .maxRecords 1, none⟩ [0xE0, 0x27, 0x00, 0xEE] (listReply 0x27 [[0x41], long])))
      (offer ⟨.cmd 0x27, .maxRecords 1, none⟩ [0xE0, 0x27, 0x00, 0xEE] (listReply 0x27 [[0x41], long]))
      { Env.free with timers := 2 } := ⟨by decide, by decide, by decide, by decide, by decide, offered_holds _ _ _⟩

theorem witness_ConnectOperation : Cfg.vectors.errCmd ≠ 0x91 ∧ [(0x41 : Byte)].length ≤ Cfg.vectors.ssidMax
    ∧ ([] : List Byte).length ≤ Cfg.vectors.passMax
    ∧ [0xE0, 0x11, 0x02] ++ BitVec.ofNat 8 1 :: [0x41] ++ BitVec.ofNat 8 0 :: []
        ++ 0xEE :: List.replicate ((4 - (6 + 1 + 0) % 4) % 4) 0xFF = [(0xE0 : Byte), 0x11, 0x02, 1, 0x41, 0, 0xEE, 0xFF]
    ∧ Offered (offered (offer ⟨.cmd 0x11, .credentials [0x41] [], none⟩ [0xE0, 0x11, 0x02, 1, 0x41, 0, 0xEE, 0xFF]
        (singleReply 0x11 [1])))
      (offer ⟨.cmd 0x11, .credentials [0x41] [], none⟩ [0xE0, 0x11, 0x02, 1, 0x41, 0, 0xEE, 0xFF]
        (singleReply 0x11 [1])) { Env.free with timers := 2 } :=
  ⟨by decide, by decide, by decide, by decide, offered_holds _ _ _⟩

theorem witness_Abort :
    ((midCall .awaitReadyTx []).fsm = .awaitReadyTx ∧ (midCall .awaitReadyTx []).err = none)
    ∧ (midCall .awaitReadyRx []).fsm = .awaitReadyRx
    ∧ ((midCall .receiveFrame []).fsm = .receiveFrame ∧ (midCall .receiveFrame []).marker = false
      ∧ (midCall .receiveFrame []).op = .cmd 0x20)
    ∧ ({ midCall .receiveFrame [] with op := .cmd 0x27 } : State).op = .cmd 0x27
    ∧ (dev []).suspended = false ∧ (atEchoOf 0x20 []).suspended = false := by decide

theorem witness_SingleEchoRows :
    (atEchoOf 0x22 []).atEcho = true ∧ (atEchoOf 0x22 []).err = none ∧ (atEchoOf 0x22 []).op = .cmd 0x22
    ∧ (atEchoOf 0x22 []).cfg.errCmd ≠ replyOp 0x22
    ∧ [(1 : Byte), 2, 3, 4, 5, 6].length = (atEchoOf 0x22 []).cfg.macLen
    ∧ ([] : List Byte).length = fillerCount (atEchoOf 0x22 []).cfg ((atEchoOf 0x22 []).rxCount + (4 + 6))
    ∧ (atEchoOf 0x22 [1, 6, 1, 2, 3, 4, 5, 6, 0xEE]).env.rx
      = 1 :: BitVec.ofNat 8 6 :: ([1, 2, 3, 4, 5, 6] ++ 0xEE :: ([] ++ []))
    ∧ ([] : List Byte).length ≤ (atEchoOf 0x37 []).args.cap
    ∧ (atEchoOf 0x20 [1, 1, 3, 0xEE]).env.rx = 1 :: BitVec.ofNat 8 1 :: ([3] ++ 0xEE :: ([] ++ [])) := by decide

theorem witness_ScanEchoRow : (atEchoOf 0x27 []).atEcho = true ∧ (atEchoOf 0x27 []).op = .cmd 0x27
    ∧ (atEchoOf 0x27 []).cfg.errCmd ≠ 0xA7
    ∧ (∀ p ∈ [[(0x41 : Byte)]].take (min 1 (min 6 6)), p.length ≤ (atEchoOf 0x27 []).cfg.ssidMax)
    ∧ (atEchoOf 0x27 [1, 1, 0x41, 0xEE]).env.rx = (BitVec.ofNat 8 1 :: ([[0x41]].flatMap paramField ++ [0xEE])) ++ [] ++ []
    ∧ ([] : List Byte).length = fillerCount (atEchoOf 0x27 []).cfg ((atEchoOf 0x27 []).rxCount + (1 + 4)) := by decide

theorem witness_ErrorReply : (atEchoOf 0x20 [0x12, 0x34]).atEcho = true ∧ (atEchoOf 0x20 [0x12, 0x34]).err = none
    ∧ (atEchoOf 0x20 [0x12, 0x34]).op = .cmd 0x20
    ∧ ([] : List Byte).length = fillerCount (atEchoOf 0x20 []).cfg ((atEchoOf 0x20 []).rxCount + 3)
    ∧ (atEchoOf 0x20 [0x12, 0x34]).env.rx = 0x12 :: 0x34 :: ([] ++ []) := by decide

theorem witness_OtherEcho : (atEchoOf 0x37 [0x21]).atEcho = true ∧ (0x21 : Byte) ≠ (atEchoOf 0x37 []).cfg.errCmd
    ∧ (0x21 : Byte) ≠ replyOp 0x37 ∧ decodeEcho (atEchoOf 0x37 []).cfg.errCmd 0x21 = .error (.unknownEcho 0x21)
    ∧ (atEchoOf 0x37 [0x21]).env.rx = 0x21 :: [] ∧ (0xA0 : Byte) ≠ replyOp 0x37
    ∧ decodeEcho (atEchoOf 0x37 []).cfg.errCmd 0xA0 = .ok .getconnstatusReply := by decide

theorem witness_InputsOutside : (dev []).suspended = false ∧ (midCall .receiveFrame []).atEcho = false ∧ (dev []).atEcho = false := by decide

/-- A trace with exchanges, and the transport's call for one of them. -/
theorem witness_Transport :
    Event.x 0xE0 0x00 ∈ ({ dev [] with trace := [.clr .cs, .x 0xE0 0x00] } : State).trace
    ∧ TransportCall.transferByte 0 0 true 0xE0 0x00
      ∈ ({ dev [] with trace := [.clr .cs, .x 0xE0 0x00] } : State).transportCalls := by decide

end Sys2Proof.Tests
end

/-! ### The decoder undoes the encoder (30_encoding.md R85, R86, R88, R95, R96) -/

namespace Sys2Proof

/-- The error sentinel is looked up before the echo rows (00_scope.md R8). -/
@[simp] theorem decodeEcho_errCmd (errCmd : Byte) : decodeEcho errCmd errCmd = .ok .errCmdReply := if_pos rfl

/-- The choice of ERR_CMD changes the meaning of no byte but the two it is moved between. -/
theorem decodeEcho_congr {d e b : Byte} (hd : b ≠ d) (he : b ≠ e) : decodeEcho d b = decodeEcho e b := by
  simp only [decodeEcho, if_neg hd, if_neg he]

/-- Every instruction is read back from its code, unless it is an echo row whose byte ERR_CMD takes. -/
theorem decode_encode (errCmd : Byte) (i : Instr)
    (hne : ∀ b, encode errCmd i = .echo b → i ≠ .errCmdReply → b ≠ errCmd) :
    decode errCmd (encode errCmd i) = .ok i := by
  cases i with
  | errCmdReply => exact decodeEcho_errCmd errCmd
  | getfwversionReply | getconnstatusReply | getmacaddrReply | startscanReply | scannetworksReply | connectReply
  | disconnectReply =>
    have notSentinel := hne _ rfl nofun
    exact decodeEcho_congr (e := Cfg.vectors.errCmd) notSentinel (by decide)
  | getfwversion | getconnstatus | getmacaddr | startscan | scannetworks | connect | disconnect | resetseq | abort =>
    rfl

/-- Settles O2, by cases on the instruction. -/
theorem decodeOfEncodeGivesTheInstruction : Obligations.DecodeOfEncodeGivesTheInstruction := decode_encode

end Sys2Proof

/-! ### The transport view of the trace (00_scope.md R11) -/

namespace Sys2Proof.Machine

section transport

variable {s : State} {c : Cfg} {e : Event}

theorem transportCall_eq_transferByte {bus cs : Nat} {keep : Bool} {out answer : Byte} :
    transportCall c e = some (.transferByte bus cs keep out answer) ↔
      e = .x out answer ∧ bus = c.bus ∧ cs = c.cs ∧ keep = true := by
  cases e <;> simp [transportCall, eq_comm, and_comm, and_left_comm, and_assoc]

theorem transportCall_eq_acquire {bus cs mode clock : Nat} :
    transportCall c e = some (.acquire bus cs mode clock) ↔
      e = .acq ∧ bus = c.bus ∧ cs = c.cs ∧ mode = c.mode ∧ clock = c.clock := by
  cases e <;> simp [transportCall, eq_comm]

theorem transportCall_eq_release {bus : Nat} :
    transportCall c e = some (.release bus) ↔ e = .rel ∧ bus = c.bus := by
  cases e <;> simp [transportCall, eq_comm]

theorem State.mem_transportCalls {call : TransportCall} :
    call ∈ s.transportCalls ↔ ∃ e ∈ s.trace, transportCall s.cfg e = some call := List.mem_filterMap

/-- A call that only one event stands for is made as often as that event happens. -/
theorem State.count_transportCalls {call : TransportCall}
    (hcall : ∀ e', transportCall s.cfg e' = some call ↔ e' = e) :
    s.transportCalls.count call = s.trace.count e := by
  rw [State.transportCalls, List.count_filterMap, List.count_eq_countP]
  exact List.countP_congr fun e' _ => by simpa using hcall e'

end transport

/-- Settles O60: each transport call is traced back to the one event that stands for it. -/
theorem everyTransferKeepsSelected : Obligations.EveryTransferKeepsSelected := by
  intro s
  refine ⟨?transfers, ?exchanges, ?acquires, ?releases, ?acquireCount, ?releaseCount⟩
  case transfers =>
    rintro _ made bus cs keep out answer rfl
    obtain ⟨e, happened, stands⟩ := State.mem_transportCalls.1 made
    obtain ⟨rfl, hbus, hcs, hkeep⟩ := transportCall_eq_transferByte.1 stands
    exact ⟨hbus, hcs, hkeep, happened⟩
  case exchanges => exact fun o i happened => State.mem_transportCalls.2 ⟨.x o i, happened, rfl⟩
  case acquires =>
    intro bus cs mode clock made
    obtain ⟨e, -, stands⟩ := State.mem_transportCalls.1 made
    exact (transportCall_eq_acquire.1 stands).2
  case releases =>
    intro bus made
    obtain ⟨e, -, stands⟩ := State.mem_transportCalls.1 made
    exact (transportCall_eq_release.1 stands).2
  case acquireCount => exact State.count_transportCalls fun e => by simp [transportCall_eq_acquire]
  case releaseCount => exact State.count_transportCalls fun e => by simp [transportCall_eq_release]

end Sys2Proof.Machine

/-! ### The codes of the engine states and of the errors (10_state.md R30, 60_exceptions.md R220) -/

namespace Sys2Proof.Machine

/-- If a list names every value and no two of its entries have the same code, the code tells all values apart. -/
theorem eq_of_code_eq {α : Type} {code : α → Nat} {table : List α} (complete : ∀ a, a ∈ table)
    (distinct : (table.map code).Nodup) {a b : α} (same : code a = code b) : a = b :=
  List.inj_on_of_nodup_map distinct (complete a) (complete b) same

/-- The engine states in the order of the table of 10_state.md R30. -/
def Fsm.table : List Fsm :=
  [.idle, .acquireBus, .awaitReadyTx, .selectTx, .sendFrame, .deselectTx, .awaitReadyRx, .selectRx, .receiveFrame,
    .deselectRx, .releaseBus, .done, .failed, .resetSeq]

theorem Fsm.mem_table (f : Fsm) : f ∈ Fsm.table := by cases f <;> decide

theorem Fsm.map_code_table : Fsm.table.map Fsm.code = List.range 14 := by decide

theorem Fsm.code_injective {f g : Fsm} : f.code = g.code → f = g :=
  eq_of_code_eq Fsm.mem_table (Fsm.map_code_table ▸ List.nodup_range)

/-- The error kinds in the order of the table of 60_exceptions.md R220. -/
def ErrorKind.table : List ErrorKind :=
  [.argumentOutOfRange, .handshakeTimeout, .framingError, .deviceErrorReply, .unexpectedCommandEcho,
    .paramCountMismatch, .missingTerminator, .bufferTooSmall, .shortValue, .cancelled]

theorem ErrorKind.mem_table (e : ErrorKind) : e ∈ ErrorKind.table := by cases e <;> decide

theorem map_errCode_table : ErrorKind.table.map (fun e => errCode (some e)) = (List.range 10).map (· + 1) := by decide

/-- The latch's values: no error, then the kinds. -/
theorem mem_none_cons_table (d : Option ErrorKind) : d ∈ none :: ErrorKind.table.map some := by
  cases d with
  | none => exact List.mem_cons_self
  | some e => exact List.mem_cons_of_mem _ (List.mem_map_of_mem e.mem_table)

theorem map_errCode_none_cons_table : (none :: ErrorKind.table.map some).map errCode = List.range 11 := by
  calc (none :: ErrorKind.table.map some).map errCode
      = 0 :: ErrorKind.table.map (fun e => errCode (some e)) := by rw [List.map_cons, List.map_map]; rfl
    _ = 0 :: (List.range 10).map (· + 1) := by rw [map_errCode_table]
    _ = List.range 11 := List.range_succ_eq_map.symm

theorem errCode_injective {d e : Option ErrorKind} : errCode d = errCode e → d = e :=
  eq_of_code_eq mem_none_cons_table (map_errCode_none_cons_table ▸ List.nodup_range)

/-- Settles O59: the codes along each table are an initial range, and a range repeats nothing. -/
theorem stateAndErrorCodesAreTheTables : Obligations.StateAndErrorCodesAreTheTables :=
  ⟨Fsm.map_code_table, map_errCode_table, rfl, fun _ _ => Fsm.code_injective, fun _ _ => errCode_injective⟩

end Sys2Proof.Machine

/-! ### What a step can do: it takes inputs, and at most one run of the engine follows (log 2) -/

namespace Sys2Proof.Machine

/-- The state with other inputs before it: the environment's answers and the requests presented. -/
def State.withInputs (s : State) (env : Env) (requests : List Request) : State :=
  { s with env := env, requests := requests }

@[simp] theorem State.withInputs_trace (s : State) (env : Env) (requests : List Request) :
    (s.withInputs env requests).trace = s.trace := rfl

theorem State.takeRx_withInputs (s : State) : s.takeRx.2 = s.withInputs s.takeRx.2.env s.requests := s.takeRx_frame

theorem State.takeAbort_withInputs (s : State) :
    s.takeAbort.2 = s.withInputs s.takeAbort.2.env s.requests := s.takeAbort_frame

/-- Where a step or an instruction can lead: it changes inputs only, or it changes inputs and then the call in flight goes
on, or it changes inputs and then a whole call runs. -/
inductive Reaches (s : State) : State → Prop where
  | waits (env : Env) (requests : List Request) : Reaches s (s.withInputs env requests)
  | resumes (env : Env) (requests : List Request) : Reaches s (resume (s.withInputs env requests))
  | calls (r : Request) (env : Env) (requests : List Request) : Reaches s (call r (s.withInputs env requests))

/-- Inputs taken first are taken together with the later ones. -/
theorem Reaches.of_withInputs {s t : State} {env : Env} {requests : List Request}
    (h : Reaches (s.withInputs env requests) t) : Reaches s t := by
  cases h with
  | waits env' requests' => exact .waits env' requests'
  | resumes env' requests' => exact .resumes env' requests'
  | calls r env' requests' => exact .calls r env' requests'

theorem present_reaches (r : Request) (s : State) : Reaches s (present r s) := by
  unfold present
  split
  · exact .calls r s.env s.requests
  · exact .waits s.env _

theorem echoArrives_reaches (b : Byte) (s : State) : Reaches s (echoArrives b s) := by
  unfold echoArrives
  split
  · exact .resumes _ s.requests
  · exact .waits s.env s.requests

theorem abortRises_reaches (s : State) : Reaches s (abortRises s) := by
  unfold abortRises
  split
  · exact .resumes _ s.requests
  · exact .waits s.env s.requests

theorem unlisted_reaches (c : Code) (s : State) : Reaches s (unlisted c s) := by
  cases c with
  | request r => exact .calls r s.env s.requests
  | echo b => exact echoArrives_reaches b s
  | abort _ => exact .waits s.env s.requests

/-- An instruction presents its request, delivers its echo byte, or raises ABORT. -/
theorem exec_reaches (i : Instr) (s : State) : ∃ t, exec i s = .next t ∧ Reaches s t := by
  cases i with
  | getfwversion | getconnstatus | getmacaddr | startscan | scannetworks | connect | disconnect | resetseq =>
    exact ⟨_, rfl, present_reaches _ s⟩
  | getfwversionReply | getconnstatusReply | getmacaddrReply | startscanReply | scannetworksReply | connectReply
  | disconnectReply | errCmdReply =>
    exact ⟨_, rfl, echoArrives_reaches _ s⟩
  | abort => exact ⟨_, rfl, abortRises_reaches s⟩

/-- A fetch takes inputs and changes nothing else. -/
theorem fetch_withInputs {s t : State} {c : Code} (h : fetch s = some (c, t)) :
    ∃ env requests, t = s.withInputs env requests := by
  unfold fetch at h
  split at h
  · split at h
    · cases h
    · cases h
      exact ⟨s.env, _, rfl⟩
  · split at h
    · cases h
      exact ⟨_, _, s.takeRx_withInputs⟩
    · split at h
      · cases h
        exact ⟨_, _, s.takeAbort_withInputs⟩
      · cases h

/-- Away from Idle, an echo and a suspension point, the engine takes nothing in (log 1). -/
theorem fetch_eq_none {s : State} (idle : s.fsm ≠ .idle) (echo : s.atEcho = false) (suspended : s.suspended = false) :
    fetch s = none := by
  simp [fetch, idle, echo, suspended]

/-- With nothing to take in, a step is the call in flight going on (log 2). -/
theorem step_of_fetch_none {s : State} (config : Cfg.inRange s.cfg = true) (h : fetch s = none) :
    step s = .next (resume s) := by
  simp [step, config, h]

theorem step_reaches {s t : State} (h : step s = .next t) : Reaches s t := by
  unfold step at h
  split at h
  · split at h
    · cases h
      exact .resumes s.env s.requests
    · rename_i c u fetched
      obtain ⟨env, requests, rfl⟩ := fetch_withInputs fetched
      split at h
      · rename_i i _
        obtain ⟨v, executed, reached⟩ := exec_reaches i (s.withInputs env requests)
        cases executed.symm.trans h
        exact reached.of_withInputs
      · cases h
        exact (unlisted_reaches c _).of_withInputs
  · cases h

end Sys2Proof.Machine

/-! ### The trace only grows (20_memory.md R61) -/

namespace Sys2Proof.Machine

theorem Emits.trace_prefix {P : Event → Prop} {s t : State} (h : Emits P s t) : s.trace <+: t.trace := by
  obtain ⟨l, grown, -⟩ := h.grows
  exact ⟨l, grown.symm⟩

@[simp] theorem State.takeError_trace (s : State) (e : ErrorKind) : (s.takeError e).trace = s.trace := by
  rw [s.takeError_frame]

@[simp] theorem State.takeBus_trace (s : State) : s.takeBus.2.trace = s.trace := by rw [s.takeBus_frame]

@[simp] theorem settle_trace (next : Fsm) (r : Ended) : (settle next r).trace = r.1.trace := by
  unfold settle
  split
  · rfl
  · exact State.takeError_trace _ _

/-- An accept is the one event of its request (43_command_engine.md R180). -/
@[simp] theorem accept_trace (r : Request) (s : State) : (accept r s).trace = s.trace ++ [.req r] := by
  unfold accept
  dsimp only
  split
  · rfl
  · split
    · rfl
    · exact State.takeError_trace _ _

theorem decodeCall_trace_prefix (s : State) : s.trace <+: (decodeCall s).1.trace := by
  unfold decodeCall
  split
  · exact (decodeReply_frame _ _ s).emits.trace_prefix
  · exact List.prefix_rfl

theorem actAcquire_trace_prefix (s : State) : s.trace <+: (actAcquire s).trace := by
  unfold actAcquire
  split <;> simp

theorem actSend_trace_prefix (s : State) : s.trace <+: (actSend s).trace := by
  unfold actSend
  split
  · rename_i f _
    exact (sendBytes_spec f { s with tx := f, txIdx := 0 }).1.emits.trace_prefix
  · simp

theorem State.returnFromError_trace_prefix (s : State) : s.trace <+: s.returnFromError.trace := by
  unfold State.returnFromError
  split <;> simp

/-- No engine state's rule takes an event back. -/
theorem action_trace_prefix (s : State) : s.trace <+: (action s).trace := by
  unfold action
  cases s.fsm with
  | idle => exact List.prefix_rfl
  | acquireBus => exact actAcquire_trace_prefix s
  | awaitReadyTx => simpa [actAwaitTx] using (waitReady_spec s).1.emits.trace_prefix
  | selectTx => simp [actSelectTx, select_eq]
  | sendFrame => exact actSend_trace_prefix s
  | deselectTx => simp [actDeselectTx, deselect_eq]
  | awaitReadyRx => simpa [actAwaitRx] using (waitReady_spec s).1.emits.trace_prefix
  | selectRx => simp [actSelectRx, select_eq]
  | receiveFrame => simpa [actReceive] using decodeCall_trace_prefix s
  | deselectRx => simp [actDeselectRx, deselect_eq]
  | releaseBus => simp [actRelease]
  | done => simp [actDone]
  | failed => exact s.returnFromError_trace_prefix
  | resetSeq => simp [actResetSeq, resetSequence_eq]

theorem resume_trace_prefix (s : State) : s.trace <+: (resume s).trace :=
  run_keeps (P := fun t => s.trace <+: t.trace) (fun t _ grown => grown.trans (action_trace_prefix t)) callLength s
    List.prefix_rfl

theorem call_trace_prefix (r : Request) (s : State) : s.trace <+: (call r s).trace :=
  calc s.trace
    _ <+: (accept r s).trace := by simp
    _ <+: (call r s).trace := resume_trace_prefix (accept r s)

theorem Reaches.trace_prefix {s t : State} (h : Reaches s t) : s.trace <+: t.trace := by
  cases h with
  | waits env requests => exact List.prefix_rfl
  | resumes env requests => exact resume_trace_prefix (s.withInputs env requests)
  | calls r env requests => exact call_trace_prefix r (s.withInputs env requests)

/-- Settles O31: every rule of the engine and every accept only adds events, so all that a step can do only adds. -/
theorem stepOnlyAddsToTheTrace : Obligations.StepOnlyAddsToTheTrace := by
  intro s t stepped
  obtain ⟨l, grown⟩ := (step_reaches stepped).trace_prefix
  exact ⟨l, grown.symm⟩

end Sys2Proof.Machine

/-! ### A run ends in Idle, or holds for the bus (20_memory.md R70, 60_exceptions.md R240) -/

namespace Sys2Proof.Machine

/-- AcquireBus is the farthest state from the end of a call. -/
theorem Fsm.rank_le_callLength (f : Fsm) : f.rank ≤ callLength := by cases f <;> decide

/-- No rule leads into AcquireBus from outside it, so a run does not either. -/
theorem run_ne_acquireBus (k : Nat) (s : State) (h : s.fsm ≠ .acquireBus) : (run k s).fsm ≠ .acquireBus :=
  run_keeps (P := fun t => t.fsm ≠ .acquireBus)
    (fun t active outside held => outside (action_hold t active held).1) k s h

/-- A run that ends in AcquireBus is a single hold there. -/
theorem resume_hold {s : State} (held : (resume s).fsm = .acquireBus) :
    s.fsm = .acquireBus ∧ s.takeBus.1 = true ∧ (resume s).trace = s.trace := by
  have active : s.fsm ≠ .idle := fun idle => by
    rw [resume, run_idle _ _ idle, idle] at held
    cases held
  have first : (action s).fsm = .acquireBus := by
    by_contra left
    rw [resume, callLength, run_succ _ _ active left] at held
    exact run_ne_acquireBus _ _ left held
  rw [show resume s = action s from run_hold _ _ active first]
  exact action_hold s active first

/-- Settles O32: a run is long enough for the longest way, so it ends in Idle or in AcquireBus, and there it is a hold. -/
theorem everyCallEndsOrHoldsForTheBus : Obligations.EveryCallEndsOrHoldsForTheBus := by
  have ends (s : State) : (resume s).fsm = .idle ∨ (resume s).fsm = .acquireBus :=
    run_ends callLength s s.fsm.rank_le_callLength
  constructor
  · intro s
    refine (ends s).imp_right fun held => ?_
    exact ⟨held, resume_hold held⟩
  · intro r s _
    refine (ends (accept r s)).imp_right fun held => ?_
    obtain ⟨began, busy, silent⟩ := resume_hold held
    exact ⟨held, began, busy, silent.trans (accept_trace r s)⟩

/-- AcquireBus with the answer "held by another" queued: only the answer is used up (20_memory.md R70). -/
theorem resume_acquireBus_busy {s : State} {l : List Bool} (acquiring : s.fsm = .acquireBus)
    (busy : s.env.bus = true :: l) : resume s = { s with env := { s.env with bus := l } } := by
  have rule : action s = { s with env := { s.env with bus := l } } := by
    simp [action, acquiring, actAcquire, s.takeBus_cons busy]
  have active : s.fsm ≠ .idle := by simp [acquiring]
  calc resume s
    _ = action s := run_hold _ _ active (by simpa [rule] using acquiring)
    _ = _ := rule

/-- Settles O43: AcquireBus takes no instruction in, and its run is one hold. -/
theorem acquireHoldsWhileAnotherHasTheBus : Obligations.AcquireHoldsWhileAnotherHasTheBus := by
  intro s l config acquiring busy
  have nothingFetched : fetch s = none :=
    fetch_eq_none (by simp [acquiring]) (by simp [State.atEcho, acquiring]) (by simp [State.suspended, acquiring])
  rw [step_of_fetch_none config nothingFetched, resume_acquireBus_busy acquiring busy]

end Sys2Proof.Machine

/-! ### The words of the opcode tables, and the bytes of the echo rows (30_encoding.md R85, R86, R88) -/

namespace Sys2Proof

/-- What the echo decoder reads is an instruction whose own code is that byte. -/
theorem encode_of_decodeEcho {errCmd b : Byte} {i : Instr} (row : decodeEcho errCmd b = .ok i) :
    encode errCmd i = .echo b := by
  unfold decodeEcho at row
  split_ifs at row
  all_goals cases row
  all_goals exact congrArg Code.echo (Eq.symm ‹b = _›)

/-- A word that stands for an instruction's own code is read as that instruction, unless ERR_CMD takes the code. -/
theorem decodeTableWord_of_encode {w : Nat} {i : Instr} (code : tableCode w = encode Cfg.vectors.errCmd i)
    (free : i = .errCmdReply ∨ encode Cfg.vectors.errCmd i ≠ .echo Cfg.vectors.errCmd) :
    decodeTableWord 8 w = some i := by
  have row : decode Cfg.vectors.errCmd (encode Cfg.vectors.errCmd i) = .ok i :=
    decode_encode _ i fun b echo other sentinel => free.elim other fun taken => taken (sentinel ▸ echo)
  simp only [decodeTableWord, if_true, code, row]

/-- Settles O1: each word of the tables is the code of its row's instruction, and 0x50 is no row's. -/
theorem tableWordsDecodeToTheirRows : Obligations.TableWordsDecodeToTheirRows := by
  refine ⟨?_, ?_, ?_, ?_, ?_, ?_, ?_, ?_, ?_, ?_, ?_, ?_, ?_, ?_, ?_, ?unlisted⟩
  case unlisted => rfl
  all_goals exact decodeTableWord_of_encode rfl (by decide)

end Sys2Proof

/-! ### The error exit of a call: Failed, the release of the bus, the deselect (60_exceptions.md R228, R229) -/

namespace Sys2Proof.Machine

open Sys2Proof.Safety

variable {s : State} {e : ErrorKind}

/-- From Failed the error is delivered, and the call is over (60_exceptions.md R229). -/
theorem run_failed (k : Nat) (failed : s.fsm = .failed) (latched : s.err = some e) :
    run (k + 1) s = { s with
      fsm := .idle, trace := s.trace ++ [.resp (.err e)], obs := s.obs ++ [⟨.failed, .idle, some e⟩] } := by
  have ended : (action s).fsm = .idle := by simpa [failed, successors] using action_follows s
  calc run (k + 1) s
    _ = run k (action s) := run_succ k s (by simp [failed]) (by simp [ended])
    _ = action s := run_idle k _ ended
    _ = _ := by simp [action, failed, State.returnFromError, latched, State.emit, State.enter]

/-- From ReleaseBus with an error latched: the release, then Failed (60_exceptions.md R228). -/
theorem run_releaseBus_error (k : Nat) (releasing : s.fsm = .releaseBus) (latched : s.err = some e) :
    run (k + 2) s = { s with
      fsm := .idle, busHeld := false, trace := s.trace ++ [.rel, .resp (.err e)],
      obs := s.obs ++ pathObs (waitErrorEnd e) } := by
  have rule : action s = { s with
      fsm := .failed, err := some e, busHeld := false, trace := s.trace ++ [.rel],
      obs := s.obs ++ [⟨.releaseBus, .failed, some e⟩] } := by
    simp [action, releasing, actRelease, latched, outcomeState, State.emit, State.enter]
  rw [run_succ (k + 1) s (by simp [releasing]) (by simp [rule]), rule, run_failed k rfl rfl]
  simp [waitErrorEnd, pathObs, latched]

/-- From DeselectRx with an error latched: the deselect, then ReleaseBus (60_exceptions.md R228). -/
theorem run_deselectRx_error (k : Nat) (deselecting : s.fsm = .deselectRx) (latched : s.err = some e) :
    run (k + 3) s = { s with
      fsm := .idle, busHeld := false, cs := .high,
      trace := s.trace ++ deselectEvents s.cfg ++ [.rel, .resp (.err e)],
      obs := s.obs ++ pathObs (receiveErrorEnd e) } := by
  have rule : action s = { s with
      fsm := .releaseBus, err := some e, cs := .high, trace := s.trace ++ deselectEvents s.cfg,
      obs := s.obs ++ [⟨.deselectRx, .releaseBus, some e⟩] } := by
    simp [action, deselecting, actDeselectRx, deselect_eq, deselectEvents, latched, State.enter]
  rw [run_succ (k + 2) s (by simp [deselecting]) (by simp [rule]), rule, run_releaseBus_error k rfl rfl]
  simp [waitErrorEnd, receiveErrorEnd, pathObs, latched]

/-- A decode that raises ends the call with the error latched first, along the whole error exit (60_exceptions.md R226,
R228). -/
theorem resume_receiveFrame_error {t : State} (receiving : s.fsm = .receiveFrame)
    (raised : decodeCall s = (t, some e)) : resume s = afterReceiveError t (t.err.getD e) := by
  have stays : t.fsm = .receiveFrame := by
    simpa [raised, receiving] using (decodeCall_keeps s).fsm
  have rule : action s = ({ t with marker := false } : State).takeError e := by
    simp [action, receiving, actReceive, settle, raised]
  rw [State.takeError_frame] at rule
  simp only [stays, errorExit] at rule
  rw [resume, callLength, run_succ 10 s (by simp [receiving]) (by simp [rule]), rule,
    run_deselectRx_error 7 rfl rfl]
  simp [afterReceiveError, receiveErrorEnd, pathObs]

end Sys2Proof.Machine

/-! ### The echo byte of a response, and one that the call in flight does not expect (30_encoding.md R93) -/

namespace Sys2Proof.Machine

open Sys2Proof.Safety

/-- The block is about to read an echo where it is in ReceiveFrame past the start marker (log 13). -/
theorem State.atEcho_iff {s : State} : s.atEcho = true ↔ s.fsm = .receiveFrame ∧ s.marker = true := by
  simp [State.atEcho]

/-- Past the start marker a decode begins with the echo, and an error raised there is the decode's, in either mode. -/
theorem decodeCall_echo_error {s t : State} {op : Byte} {e : ErrorKind} (marked : s.marker = true)
    (inFlight : s.op = .cmd op) (raised : echoCheck op s = (t, some e)) : decodeCall s = (t, some e) := by
  simp only [decodeCall, inFlight, opByte]
  cases decodeMode s.cfg op s.args with
  | single cap exact => simp [decodeReply, decodeSingle, findMarker, marked, Ended.andThen, raised]
  | list maxParams recCap => simp [decodeReply, decodeList, findMarker, marked, Ended.andThen, raised]

/-- An echo byte on which the decode raises ends the call, with the error latched first. -/
theorem echoArrives_error {s t : State} {op b : Byte} {e : ErrorKind} (atEcho : s.atEcho = true)
    (inFlight : s.op = .cmd op)
    (raised : echoCheck op { s with env := { s.env with rx := b :: s.env.rx } } = (t, some e)) :
    echoArrives b s = afterReceiveError t (t.err.getD e) := by
  obtain ⟨receiving, marked⟩ := State.atEcho_iff.1 atEcho
  rw [echoArrives, if_pos atEcho]
  exact resume_receiveFrame_error receiving (decodeCall_echo_error marked inFlight raised)

/-- A byte that is neither ERR_CMD nor the echo of the operation: one byte read, UnexpectedCommandEcho
(41_frame_codec.md R139). -/
theorem echoCheck_other {s : State} {op b : Byte} {rest : List Byte} (queued : s.env.rx = b :: rest)
    (notSentinel : b ≠ s.cfg.errCmd) (notEcho : b ≠ replyOp op) :
    echoCheck op s = ({ s.received [b] rest with marker := false }, some .unexpectedCommandEcho) := by
  simp [echoCheck, s.rxByte_queued b rest queued, notSentinel, notEcho]

/-- The arrival of a byte that the call in flight does not expect ends it (30_encoding.md R93). -/
theorem echoArrives_other {s : State} {op b : Byte} (atEcho : s.atEcho = true) (unlatched : s.err = none)
    (inFlight : s.op = .cmd op) (notSentinel : b ≠ s.cfg.errCmd) (notEcho : b ≠ replyOp op) :
    echoArrives b s = afterReceiveError { s with
      rxCount := s.rxCount + 1, trace := s.trace ++ receivedEvents [b] } .unexpectedCommandEcho := by
  rw [echoArrives_error atEcho inFlight (echoCheck_other rfl notSentinel notEcho)]
  simp [State.received, afterReceiveError, receivedEvents, unlatched]

/-- An instruction that is an echo byte is the arrival of that byte (30_encoding.md R86, R88). -/
theorem exec_of_encode_echo {s : State} {b : Byte} {i : Instr} (echo : encode s.cfg.errCmd i = .echo b) :
    exec i s = .next (echoArrives b s) := by
  cases i with
  | getfwversionReply | getconnstatusReply | getmacaddrReply | startscanReply | scannetworksReply | connectReply
  | disconnectReply | errCmdReply =>
    cases echo
    rfl
  | getfwversion | getconnstatus | getmacaddr | startscan | scannetworks | connect | disconnect | resetseq | abort =>
    cases echo

/-- Where the block is about to read an echo, a step takes the next byte in, and one that no row lists arrives all the
same (30_encoding.md R93). -/
theorem step_of_unlisted_echo {s : State} {b : Byte} {rest : List Byte} {e : Reject}
    (config : Cfg.inRange s.cfg = true) (atEcho : s.atEcho = true) (queued : s.env.rx = b :: rest)
    (refused : decodeEcho s.cfg.errCmd b = .error e) :
    step s = .next (echoArrives b { s with env := { s.env with rx := rest } }) := by
  obtain ⟨receiving, -⟩ := State.atEcho_iff.1 atEcho
  have fetched : fetch s = some (.echo b, { s with env := { s.env with rx := rest } }) := by
    simp [fetch, receiving, atEcho, s.takeRx_cons queued]
  simp [step, config, fetched, decode, refused, unlisted]

/-- Settles O57: a row's byte and a byte without a row both arrive as an echo that the call does not expect. -/
theorem otherEchoEndsTheCallUnexpected : Obligations.OtherEchoEndsTheCallUnexpected := by
  intro s op b atEcho unlatched inFlight notSentinel notEcho
  constructor
  · intro i row
    rw [exec_of_encode_echo (encode_of_decodeEcho row), echoArrives_other atEcho unlatched inFlight notSentinel notEcho]
  · intro e rest refused config queued
    rw [step_of_unlisted_echo config atEcho queued refused,
      echoArrives_other (s := { s with env := { s.env with rx := rest } }) atEcho unlatched inFlight notSentinel
        notEcho]
    rfl

end Sys2Proof.Machine

/-! ### The layout of a request frame (30_encoding.md R82, R83) -/

namespace Sys2Proof.Machine

/-- A parameter field is a length byte and the payload (30_encoding.md R89). -/
@[simp] theorem paramField_length (p : List Byte) : (paramField p).length = 1 + p.length := Nat.add_comm p.length 1

theorem flatMap_paramField_length (ps : List (List Byte)) :
    (ps.flatMap paramField).length = (ps.map (fun q => 1 + q.length)).sum := by
  simp [List.length_flatMap]

/-- The field of parameter `i` stands behind the fields before it, whatever follows the parameter section. -/
theorem take_drop_flatMap_paramField {ps : List (List Byte)} {i : Nat} {p : List Byte} (param : ps[i]? = some p)
    (rest : List Byte) :
    (((ps.flatMap paramField ++ rest).drop ((ps.take i).map (fun q => 1 + q.length)).sum).take (1 + p.length))
      = paramField p := by
  have fields : ps.flatMap paramField ++ rest
      = (ps.take i).flatMap paramField ++ (paramField p ++ ((ps.drop (i + 1)).flatMap paramField ++ rest)) := by
    have cut : ps = ps.take i ++ p :: ps.drop (i + 1) := by
      obtain ⟨inside, rfl⟩ := List.getElem?_eq_some_iff.1 param
      rw [← List.drop_eq_getElem_cons inside, List.take_append_drop]
    calc ps.flatMap paramField ++ rest
      _ = (ps.take i ++ p :: ps.drop (i + 1)).flatMap paramField ++ rest := by rw [← cut]
      _ = _ := by simp
  rw [fields, List.drop_left' (flatMap_paramField_length _), List.take_left' (paramField_length p)]

/-- The last byte before the filler is the end marker (41_frame_codec.md R131 step 5). -/
theorem frameBody_getLast? (op : Byte) (ps : List (List Byte)) :
    (frameBody op ps).getLast? = some Config.endMarker :=
  List.getLast?_concat (l := Config.startMarker :: requestOp op :: BitVec.ofNat 8 ps.length :: ps.flatMap paramField)

theorem encodeFrame_nil (op : Byte) : encodeFrame op [] = .ok (padFrame (frameBody op [])) := rfl

/-- Settles O4: four bytes are aligned already, so no filler follows them. -/
theorem zeroParameterRequestIsFourBytes : Obligations.ZeroParameterRequestIsFourBytes := by
  intro op
  have body : frameBody op [] = [0xE0, op &&& 0x7F, 0x00, 0xEE] := rfl
  rw [encodeFrame_nil, body]
  simp [padFrame, padCount]

/-- Settles O6: the frame is the head, the parameter fields, the end marker and the filler, in this order. -/
theorem requestFrameLayout : Obligations.RequestFrameLayout := by
  intro op ps f encoded u
  obtain ⟨-, rfl⟩ := encodeFrame_ok encoded
  have bodyLength : (frameBody op ps).length = u := frameBody_length op ps
  refine ⟨rfl, ?params, ?endMarker, ?filler⟩
  case params =>
    intro i p param
    rw [padFrame, frameBody, Nat.add_comm 3]
    simp only [List.cons_append, List.drop_succ_cons, List.append_assoc]
    exact take_drop_flatMap_paramField param _
  case endMarker =>
    have last : (frameBody op ps)[u - 1]? = some Config.endMarker := by
      rw [← bodyLength, ← List.getLast?_eq_getElem?, frameBody_getLast?]
    obtain ⟨inside, -⟩ := List.getElem?_eq_some_iff.1 last
    rw [padFrame, List.getElem?_append_left inside, last]
    rfl
  case filler =>
    rw [padFrame, List.drop_left' bodyLength, bodyLength]
    rfl

end Sys2Proof.Machine

/-! ### A request is accepted, or refused before any bus activity (43_command_engine.md R182) -/

namespace Sys2Proof.Machine

open Sys2Proof.Safety

/-- The accept of a wire request whose selector and arguments pass. -/
theorem accept_of_pass {b : Byte} {r : Request} {s : State} (wire : r.sel = .cmd b)
    (pass : (known b && argsOk s.cfg b r) = true) :
    (accept r s).fsm = .acquireBus ∧ (accept r s).err = none := by
  simp [accept, wire, State.emit, pass]

/-- A wire request whose selector or arguments do not pass: the whole call, from Idle to Idle. -/
theorem call_of_fail {b : Byte} {r : Request} {s : State} (idle : s.fsm = .idle) (wire : r.sel = .cmd b)
    (fail : (known b && argsOk s.cfg b r) = false) :
    call r s = { s with
      op := .cmd b, args := latchArgs s.cfg r, err := some .argumentOutOfRange, truncated := false, m := 0,
      slots := List.replicate (slotCount s.cfg (.cmd b) (latchArgs s.cfg r)) [],
      trace := s.trace ++ [.req r, .resp (.err .argumentOutOfRange)],
      obs := s.obs ++ pathObs [(.idle, none), (.failed, some .argumentOutOfRange),
        (.idle, some .argumentOutOfRange)] } := by
  have refused : accept r s = { s with
      fsm := .failed, op := .cmd b, args := latchArgs s.cfg r, err := some .argumentOutOfRange, truncated := false,
      m := 0, slots := List.replicate (slotCount s.cfg (.cmd b) (latchArgs s.cfg r)) [],
      trace := s.trace ++ [.req r], obs := s.obs ++ [⟨.idle, .failed, some .argumentOutOfRange⟩] } := by
    simp [accept, wire, State.emit, fail, State.takeError_frame, idle, errorExit]
  rw [call, refused, resume, callLength, run_failed 10 rfl rfl]
  simp [pathObs, idle]

/-- Settles O39, by the one check of the accept. -/
theorem badSelectorOrArgumentsFailBeforeTheBus : Obligations.BadSelectorOrArgumentsFailBeforeTheBus := by
  intro b a t s idle r
  have check : (b ∈ [0x37, 0x20, 0x22, 0x36, 0x27, 0x11, 0x30] ∧ argsOk s.cfg b r = true) ↔
      (known b && argsOk s.cfg b r) = true := by
    rw [Bool.and_eq_true, known, List.contains_iff_mem, catalogue]
  rw [check]
  constructor
  · intro pass
    obtain ⟨acquires, unlatched⟩ := accept_of_pass (r := r) rfl pass
    exact ⟨acquires, unlatched, accept_trace r s⟩
  · intro fail
    exact call_of_fail idle rfl (Bool.eq_false_of_not_eq_true fail)

/-- The arguments that pass the check of R183 are those 30_encoding.md R96 gives the selector (log 18). -/
theorem shape_of_operandsOk {c : Cfg} {b : Byte} {a : OpArgs} (ok : operandsOk c b a = true) :
    (b = 0x37 ∧ ∃ n, a = .cap n) ∨ (b = 0x27 ∧ ∃ n, a = .maxRecords n)
      ∨ (b = 0x11 ∧ ∃ ssid pass, a = .credentials ssid pass)
      ∨ (b ≠ 0x37 ∧ b ≠ 0x27 ∧ b ≠ 0x11 ∧ a = .none) := by
  unfold operandsOk at ok
  split_ifs at ok with connect version scan
  · cases a with
    | credentials ssid pass => exact .inr (.inr (.inl ⟨connect, ssid, pass, rfl⟩))
    | none | cap | maxRecords => cases ok
  · cases a with
    | cap n => exact .inl ⟨version, n, rfl⟩
    | none | maxRecords | credentials => cases ok
  · cases a with
    | maxRecords n => exact .inr (.inl ⟨scan, n, rfl⟩)
    | none | cap | credentials => cases ok
  · cases a with
    | none => exact .inr (.inr (.inr ⟨version, scan, connect, rfl⟩))
    | cap | maxRecords | credentials => cases ok

/-- A request that passes the accept's check has its row in the decoder. -/
theorem decodeRequest_of_pass {c : Cfg} {b : Byte} {a : OpArgs} {t : Option Bound}
    (pass : (known b && argsOk c b ⟨.cmd b, a, t⟩) = true) : ∃ i, decodeRequest ⟨.cmd b, a, t⟩ = .ok i := by
  rw [Bool.and_eq_true, known, List.contains_iff_mem, argsOk, Bool.and_eq_true] at pass
  obtain ⟨listed, operands, -⟩ := pass
  obtain ⟨rfl, n, rfl⟩ | ⟨rfl, n, rfl⟩ | ⟨rfl, ssid, phrase, rfl⟩ | ⟨version, scan, connect, rfl⟩ :=
    shape_of_operandsOk operands
  · exact ⟨_, rfl⟩
  · exact ⟨_, rfl⟩
  · exact ⟨_, rfl⟩
  · have plain : b = 0x20 ∨ b = 0x22 ∨ b = 0x36 ∨ b = 0x30 := by
      simpa only [catalogue, List.mem_cons, List.not_mem_nil, version, scan, connect, false_or, or_false] using listed
    rcases plain with rfl | rfl | rfl | rfl <;> exact ⟨_, rfl⟩

/-- What the decoder refuses is a wire request that fails the accept's check (30_encoding.md R92, log 18). -/
theorem fail_of_decodeRequest_error {r : Request} {e : Reject} (refused : decodeRequest r = .error e) (c : Cfg) :
    ∃ b, r.sel = .cmd b ∧ (known b && argsOk c b r) = false := by
  obtain ⟨sel, a, t⟩ := r
  cases sel with
  | resetSeq => cases refused
  | cmd b =>
    refine ⟨b, rfl, Bool.eq_false_of_not_eq_true fun pass => ?_⟩
    obtain ⟨i, row⟩ := decodeRequest_of_pass pass
    cases row.symm.trans refused

/-- In Idle a step takes the oldest request, and one that no row lists is a call all the same (43_command_engine.md
R182). -/
theorem step_of_unlisted_request {s : State} {r : Request} {rest : List Request} {e : Reject}
    (config : Cfg.inRange s.cfg = true) (idle : s.fsm = .idle) (queued : s.requests = r :: rest)
    (refused : decodeRequest r = .error e) : step s = .next (call r { s with requests := rest }) := by
  have fetched : fetch s = some (.request r, { s with requests := rest }) := by simp [fetch, idle, queued]
  simp [step, config, fetched, decode, refused, unlisted]

/-- Settles O41: what the decoder refuses, the accept refuses too. -/
theorem unlistedRequestIsAnsweredOutOfRange : Obligations.UnlistedRequestIsAnsweredOutOfRange := by
  intro s r rest e config idle queued refused
  obtain ⟨b, wire, fail⟩ := fail_of_decodeRequest_error refused s.cfg
  have answered := call_of_fail (s := { s with requests := rest }) idle wire fail
  refine ⟨_, step_of_unlisted_request config idle queued refused, ?_⟩
  rw [answered]
  exact ⟨idle, rfl, rfl, rfl⟩

end Sys2Proof.Machine

/-! ### The reset sequence and the ready wait (40_handshake.md R111, R114, R115) -/

namespace Sys2Proof.Machine

open Sys2Proof.Safety

/-- Settles O19, with the nine events of the sequence written out. -/
theorem resetSequenceDrivesItsSevenSteps : Obligations.ResetSequenceDrivesItsSevenSteps := resetSequence_eq

theorem isExchange_of_isWaitEvent {e : Event} (wait : isWaitEvent e = true) : isExchange e = false := by
  cases e with
  | x => cases wait
  | _ => rfl

theorem countEvents_eq_zero {p : Event → Bool} {l : List Event} (absent : ∀ e ∈ l, p e = false) :
    countEvents p l = 0 := by
  simpa [countEvents] using absent

/-- Settles O22: what a wait keeps, and the four kinds of events it emits. -/
theorem readyWaitMovesNoByte : Obligations.ReadyWaitMovesNoByte := by
  intro s
  obtain ⟨frame, result⟩ := waitReady_spec s
  obtain ⟨l, grown, wait⟩ := frame.emits.grows
  exact ⟨frame.emits.keeps.cs, frame.emits.keeps.busHeld,
    ⟨l, grown, countEvents_eq_zero fun e mem => isExchange_of_isWaitEvent (wait e mem)⟩, result⟩

theorem passEvents_succ (d : Nat) :
    passEvents (d + 1) = [.abt .low, .read .ready .high, .texp false] ++ passEvents d := by
  simp [passEvents, List.replicate_succ]

/-- A poll with `d` samples of ABORT at 0 and of READY at 1 queued takes `d` passes, a false timer sample in each. -/
theorem poll_timerTests_passes (q : Nat) {ab rdy : List Level} (d : Nat) : ∀ s : State,
    s.env.abort = List.replicate d .low ++ ab → s.env.ready = List.replicate d .high ++ rdy →
    poll (timerTests (q + d)) s = poll (timerTests q) { s with
      env := { s.env with abort := ab, ready := rdy }, trace := s.trace ++ passEvents d } := by
  induction d with
  | zero =>
    rintro s rfl rfl
    simp [passEvents]
  | succ d ih =>
    intro s aborts readies
    rw [poll_waits s aborts readies]
    show poll (timerTests (q + d)) (State.emit _ (.texp false)) = _
    rw [ih _ rfl rfl]
    simp [passEvents_succ]

/-- The state of a wait after its start, `d` passes and the events `last` of a further poll (40_handshake.md R114);
`ab`, `rdy` and `ps` are what the answer queues hold then. -/
def State.waited (s : State) (d : Nat) (last : List Event) (ab rdy : List Level) (ps : List Nat) : State :=
  { s with
    timer := Config.timerNow s.env.timers,
    env := { s.env with abort := ab, ready := rdy, polls := ps, timers := s.env.timers + 1 },
    trace := s.trace ++ waitEvents d last }

section wait
variable {s : State} {j p q d : Nat} {ab rdy as rs : List Level} {ps : List Nat}

/-- A wait whose first poll goes on to the timer is the same poll with the timer's answers drawn before it. -/
theorem waitReady_of_first_poll (polls : s.env.polls = p :: ps) (aborts : s.env.abort = .low :: as)
    (readies : s.env.ready = .high :: rs) :
    waitReady s = poll (timerTests p) (s.waited 0 [] s.env.abort s.env.ready ps) := by
  rw [waitReady, poll_waits s.startTimer aborts readies, State.takePolls_cons (a := p) (l := ps),
    poll_waits (s.waited 0 [] s.env.abort s.env.ready ps) aborts readies]
  · simp [State.startTimer, State.waited, waitEvents, passEvents]
  · exact polls

/-- A wait that goes on to the timer takes `d` passes, while timer samples that answer false last. -/
theorem waitReady_passes (polls : s.env.polls = (q + d) :: ps) (aborts : s.env.abort = .low :: as)
    (readies : s.env.ready = .high :: rs) (lows : s.env.abort = List.replicate d .low ++ ab)
    (highs : s.env.ready = List.replicate d .high ++ rdy) :
    waitReady s = poll (timerTests q) (s.waited d [] ab rdy ps) := by
  rw [waitReady_of_first_poll polls aborts readies,
    poll_timerTests_passes q d (s.waited 0 [] s.env.abort s.env.ready ps) lows highs]
  simp [State.waited, waitEvents, passEvents]

/-- READY low at a poll where the timer would expire, or before it: the wait returns (40_handshake.md R114). -/
theorem waitReady_returns_after_passes (within : j ≤ p) (polls : s.env.polls = p :: ps)
    (lows : s.env.abort = List.replicate (j + 1) .low ++ ab)
    (highs : s.env.ready = List.replicate j .high ++ .low :: rdy) :
    waitReady s = (s.waited j [.abt .low, .read .ready .low] ab rdy (if j = 0 then p :: ps else ps), none) := by
  cases j with
  | zero =>
    rw [waitReady_at_once s lows highs]
    simp [State.waited, waitEvents, passEvents, polls]
  | succ d =>
    obtain ⟨q, rfl⟩ := Nat.exists_eq_add_of_le' within
    rw [List.replicate_succ', List.append_assoc] at lows
    rw [waitReady_passes polls lows highs lows highs, poll_returns _ rfl rfl]
    simp [State.waited, waitEvents]

/-- READY high at the poll where the timer expires (40_handshake.md R114). -/
theorem waitReady_timeout_after_passes (polls : s.env.polls = p :: ps)
    (lows : s.env.abort = List.replicate (p + 1) .low ++ ab)
    (highs : s.env.ready = List.replicate (p + 1) .high ++ rdy) :
    waitReady s = (s.waited p [.abt .low, .read .ready .high, .texp true] ab rdy ps, some .handshakeTimeout) := by
  have lows' : s.env.abort = List.replicate p .low ++ .low :: ab := by
    rw [lows, List.replicate_succ', List.append_assoc]; rfl
  have highs' : s.env.ready = List.replicate p .high ++ .high :: rdy := by
    rw [highs, List.replicate_succ', List.append_assoc]; rfl
  rw [waitReady_passes (q := 0) (by rw [polls, Nat.zero_add]) lows highs lows' highs', poll_waits _ rfl rfl]
  simp [timerTests, State.emit, State.waited, waitEvents]

/-- ABORT high at the start of a poll, which then takes no READY sample (40_handshake.md R114). -/
theorem waitReady_cancelled_after_passes (within : j ≤ p) (polls : s.env.polls = p :: ps)
    (lows : s.env.abort = List.replicate j .low ++ .high :: ab)
    (highs : s.env.ready = List.replicate j .high ++ rdy) :
    waitReady s = (s.waited j [.abt .high] ab rdy (if j = 0 then p :: ps else ps), some .cancelled) := by
  cases j with
  | zero =>
    rw [waitReady_cancelled s lows]
    simp [State.waited, waitEvents, passEvents, polls, show s.env.ready = rdy from highs]
  | succ d =>
    obtain ⟨q, rfl⟩ := Nat.exists_eq_add_of_le' within
    rw [waitReady_passes polls lows highs lows highs, poll_cancelled _ rfl]
    simp [State.waited, waitEvents]

end wait

/-- Settles O21: the passes before the last poll are the same in the three cases, and the last poll decides. -/
theorem readyWaitReturnsTimesOutOrIsCancelled : Obligations.ReadyWaitReturnsTimesOutOrIsCancelled := by
  intro s j p ab rdy ps polls
  exact ⟨fun within lows highs => ⟨_, waitReady_returns_after_passes within polls lows highs⟩,
    fun lows highs => ⟨_, waitReady_timeout_after_passes polls lows highs⟩,
    fun within lows highs => ⟨_, waitReady_cancelled_after_passes within polls lows highs⟩⟩

end Sys2Proof.Machine

/-! ### Select and deselect alternate along a call (40_handshake.md R116, R117; 10_state.md R26, R27) -/

namespace Sys2Proof.Machine

open Sys2Proof.Safety

/-- An event that drives chip-select. -/
def isChipSelectEvent : Event → Bool
  | .set .cs | .clr .cs => true
  | _ => false

theorem selectionsAlternate_cons {e : Event} (other : isChipSelectEvent e = false) (v : Level) (l : List Event) :
    selectionsAlternate v (e :: l) = selectionsAlternate v l := by
  cases e with
  | set line | clr line =>
    cases line with
    | cs => cases other
    | ready | reset | boot => rfl
  | _ => rfl

theorem selectionsAlternate_append {l : List Event} (others : ∀ e ∈ l, isChipSelectEvent e = false) (v : Level)
    (rest : List Event) : selectionsAlternate v (l ++ rest) = selectionsAlternate v rest := by
  induction l with
  | nil => rfl
  | cons e l ih =>
    obtain ⟨other, others⟩ := List.forall_mem_cons.1 others
    rw [List.cons_append, selectionsAlternate_cons other, ih others]

/-- Between the two states select and deselect alternate, from the chip-select level of the first to that of the second:
what follows alternates after these events exactly if it does from the second level. -/
def Alternates (s t : State) : Prop :=
  ∃ l, t.trace = s.trace ++ l ∧
    ∀ rest, selectionsAlternate s.cs (l ++ rest) = selectionsAlternate t.cs rest

theorem Alternates.refl (s : State) : Alternates s s := ⟨[], by simp, fun _ => rfl⟩

theorem Alternates.trans {s t u : State} (h : Alternates s t) (k : Alternates t u) : Alternates s u := by
  obtain ⟨l, grown, alt⟩ := h
  obtain ⟨r, grown', alt'⟩ := k
  exact ⟨l ++ r, by rw [grown', grown, List.append_assoc], fun rest => by rw [List.append_assoc, alt, alt']⟩

/-- All that was added to the trace alternates. -/
theorem Alternates.selectionsAlternate_eq_true {s t : State} {l : List Event} (h : Alternates s t)
    (grown : t.trace = s.trace ++ l) : selectionsAlternate s.cs l = true := by
  obtain ⟨r, grown', alt⟩ := h
  obtain rfl : r = l := List.append_cancel_left (grown'.symm.trans grown)
  simpa [selectionsAlternate] using alt []

/-- Nothing drives chip-select between the two states. -/
structure LeavesChipSelect (s t : State) : Prop where
  cs : t.cs = s.cs
  grows : ∃ l, t.trace = s.trace ++ l ∧ ∀ e ∈ l, isChipSelectEvent e = false

theorem LeavesChipSelect.alternates {s t : State} (h : LeavesChipSelect s t) : Alternates s t := by
  obtain ⟨l, grown, others⟩ := h.grows
  exact ⟨l, grown, fun rest => by rw [h.cs, selectionsAlternate_append others]⟩

/-- The waits, the sends and the decodes of the engine leave chip-select alone. -/
theorem Emits.leavesChipSelect {P : Event → Prop} {s t : State} (h : Emits P s t)
    (others : ∀ e, P e → isChipSelectEvent e = false) : LeavesChipSelect s t := by
  obtain ⟨l, grown, all⟩ := h.grows
  exact ⟨h.keeps.cs, l, grown, fun e mem => others e (all e mem)⟩

/-- No event of a wait, a send or a decode drives chip-select. -/
theorem isChipSelectEvent_eq_false {e : Event} (inside : (isWaitEvent e || isSendEvent e || isDecodeEvent e) = true) :
    isChipSelectEvent e = false := by
  cases e with
  | set | clr => cases inside
  | _ => rfl

/-- A change of state after such events, with what it latches, is no event and leaves chip-select alone too. -/
theorem LeavesChipSelect.then_silent {s t u : State} (h : LeavesChipSelect s t) (cs : u.cs = t.cs)
    (trace : u.trace = t.trace) : LeavesChipSelect s u := ⟨cs.trans h.cs, by rw [trace]; exact h.grows⟩

theorem LeavesChipSelect.silent {s t : State} (cs : t.cs = s.cs) (trace : t.trace = s.trace) :
    LeavesChipSelect s t := ⟨cs, [], by simp [trace], by simp⟩

theorem LeavesChipSelect.one {s t : State} {e : Event} (cs : t.cs = s.cs) (trace : t.trace = s.trace ++ [e])
    (other : isChipSelectEvent e = false) : LeavesChipSelect s t := ⟨cs, [e], trace, by simpa using other⟩

@[simp] theorem State.takeError_cs (s : State) (e : ErrorKind) : (s.takeError e).cs = s.cs := by rw [s.takeError_frame]

@[simp] theorem State.takeBus_cs (s : State) : s.takeBus.2.cs = s.cs := by rw [s.takeBus_frame]

@[simp] theorem settle_cs (next : Fsm) (r : Ended) : (settle next r).cs = r.1.cs := by
  unfold settle
  split
  · rfl
  · exact State.takeError_cs _ _

@[simp] theorem accept_cs (r : Request) (s : State) : (accept r s).cs = s.cs := by
  unfold accept
  dsimp only
  split
  · rfl
  · split
    · rfl
    · exact State.takeError_cs _ _

theorem settle_waitReady_leavesChipSelect (next : Fsm) (s : State) : LeavesChipSelect s (settle next (waitReady s)) :=
  ((waitReady_spec s).1.emits.leavesChipSelect fun _ event => isChipSelectEvent_eq_false (by simp [event])).then_silent
    (settle_cs next _) (settle_trace next _)

theorem actAcquire_leavesChipSelect (s : State) : LeavesChipSelect s (actAcquire s) := by
  unfold actAcquire
  split
  · exact .silent s.takeBus_cs s.takeBus_trace
  · exact .one (e := .acq) (by simp) (by simp) rfl

theorem actSend_leavesChipSelect (s : State) : LeavesChipSelect s (actSend s) := by
  unfold actSend
  split
  · rename_i f _
    have sent := (sendBytes_spec f { s with tx := f, txIdx := 0 }).1.emits.leavesChipSelect
      fun _ event => isChipSelectEvent_eq_false (by simp [event])
    exact ⟨sent.cs, sent.grows⟩
  · exact .silent (s.takeError_cs _) (s.takeError_trace _)

theorem decodeCall_leavesChipSelect (s : State) : LeavesChipSelect s (decodeCall s).1 := by
  unfold decodeCall
  split
  · exact (decodeReply_frame _ _ s).emits.leavesChipSelect fun _ event => isChipSelectEvent_eq_false (by simp [event])
  · exact .silent rfl rfl

theorem State.returnFromError_leavesChipSelect (s : State) : LeavesChipSelect s s.returnFromError := by
  unfold State.returnFromError
  split
  · exact .one rfl rfl rfl
  · exact .silent rfl rfl

/-- The engine states whose rule drives chip-select: the selects, the deselects and the reset sequence (40_handshake.md
R111, R116, R117). -/
def Fsm.drivesChipSelect : Fsm → Bool
  | .selectTx | .deselectTx | .selectRx | .deselectRx | .resetSeq => true
  | _ => false

/-- Every other engine state's rule leaves chip-select alone. -/
theorem action_leavesChipSelect {s : State} (other : s.fsm.drivesChipSelect = false) :
    LeavesChipSelect s (action s) := by
  unfold action
  cases fsm : s.fsm with
  | selectTx | deselectTx | selectRx | deselectRx | resetSeq => simp [fsm, Fsm.drivesChipSelect] at other
  | idle => exact .silent rfl rfl
  | acquireBus => exact actAcquire_leavesChipSelect s
  | awaitReadyTx => exact settle_waitReady_leavesChipSelect .selectTx s
  | sendFrame => exact actSend_leavesChipSelect s
  | awaitReadyRx => exact settle_waitReady_leavesChipSelect .selectRx s
  | receiveFrame => exact (decodeCall_leavesChipSelect s).then_silent (settle_cs _ _) (settle_trace _ _)
  | releaseBus => exact .one rfl rfl rfl
  | done => exact .one rfl rfl rfl
  | failed => exact s.returnFromError_leavesChipSelect

/-- The level of chip-select is the same before and after such a state. -/
theorem csLevel_of_mem_successors {f g : Fsm} (other : f.drivesChipSelect = false) (follows : g ∈ successors f) :
    g.csLevel = f.csLevel := by
  have levels : f.drivesChipSelect = false → ∀ g ∈ successors f, g.csLevel = f.csLevel := by cases f <;> decide
  exact levels other g follows

theorem resetSeq_not_mem_successors (f : Fsm) : Fsm.resetSeq ∉ successors f := by cases f <;> decide

theorem select_alternates {s : State} (high : s.cs = .high) : Alternates s (select s) :=
  ⟨[.clr .cs], rfl, fun rest => by simp [selectionsAlternate, high, select_eq]⟩

theorem deselect_alternates {s : State} (low : s.cs = .low) : Alternates s (deselect s) :=
  ⟨deselectEvents s.cfg, by rw [deselect_eq]; rfl, fun rest => by
    simp [selectionsAlternate, low, deselect_eq, deselectEvents]⟩

/-- What every rule of a wire operation's call keeps, from the state `s` where the run began: chip-select has its level
for the engine state (10_state.md R27), RESETSEQ is not entered, and select and deselect alternate. -/
structure WireRun (s t : State) : Prop where
  level : t.cs = t.fsm.csLevel
  wire : t.fsm ≠ .resetSeq
  alternates : Alternates s t

theorem action_level {s : State} (level : s.cs = s.fsm.csLevel) : (action s).cs = (action s).fsm.csLevel := by
  by_cases drives : s.fsm.drivesChipSelect = true
  · unfold action
    cases fsm : s.fsm with
    | selectTx | deselectTx | selectRx | deselectRx | resetSeq => rfl
    | _ => simp [fsm, Fsm.drivesChipSelect] at drives
  · have other := Bool.eq_false_of_not_eq_true drives
    calc (action s).cs
      _ = s.cs := (action_leavesChipSelect other).cs
      _ = s.fsm.csLevel := level
      _ = (action s).fsm.csLevel := (csLevel_of_mem_successors other (action_follows s)).symm

/-- The selects come on a high line and the deselects on a low one; every other rule leaves the line alone. -/
theorem action_alternates {s : State} (level : s.cs = s.fsm.csLevel) (wire : s.fsm ≠ .resetSeq) :
    Alternates s (action s) := by
  by_cases drives : s.fsm.drivesChipSelect = true
  · unfold action
    cases fsm : s.fsm with
    | selectTx | selectRx => exact select_alternates (level.trans (congrArg Fsm.csLevel fsm))
    | deselectTx | deselectRx => exact deselect_alternates (level.trans (congrArg Fsm.csLevel fsm))
    | resetSeq => exact absurd fsm wire
    | _ => simp [fsm, Fsm.drivesChipSelect] at drives
  · exact (action_leavesChipSelect (Bool.eq_false_of_not_eq_true drives)).alternates

theorem WireRun.after_action {s t : State} (h : WireRun s t) : WireRun s (action t) where
  level := action_level h.level
  wire := fun entered => resetSeq_not_mem_successors t.fsm (entered ▸ action_follows t)
  alternates := h.alternates.trans (action_alternates h.level h.wire)

theorem resume_alternates {s : State} (level : s.cs = s.fsm.csLevel) (wire : s.fsm ≠ .resetSeq) :
    Alternates s (resume s) :=
  (run_keeps (P := WireRun s) (fun _ _ h => h.after_action) callLength s ⟨level, wire, .refl s⟩).alternates

/-- The accept of a wire operation is one event in Idle, and a refused one ends the call with another; neither drives
chip-select. -/
theorem call_alternates {b : Byte} {r : Request} {s : State} (idle : s.fsm = .idle) (high : s.cs = .high)
    (wire : r.sel = .cmd b) : Alternates s (call r s) := by
  cases check : known b && argsOk s.cfg b r with
  | true =>
    obtain ⟨acquires, -⟩ := accept_of_pass wire check
    have accepted : LeavesChipSelect s (accept r s) := .one (accept_cs r s) (accept_trace r s) rfl
    exact accepted.alternates.trans
      (resume_alternates (by rw [accept_cs, high, acquires]; rfl) (by simp [acquires]))
  | false =>
    rw [call_of_fail idle wire check]
    exact LeavesChipSelect.alternates ⟨rfl, _, rfl, by simp [isChipSelectEvent]⟩

/-- The minimum delays are part of the configuration's ranges (00_scope.md R8). -/
theorem delays_of_inRange {c : Cfg} (h : Cfg.inRange c = true) :
    10000 ≤ c.tResetLowUs ∧ 750000 ≤ c.tBootUs ∧ 1 ≤ c.tSettleUs := by
  simp only [Cfg.inRange, Bool.and_eq_true, decide_eq_true_eq] at h
  omega

theorem sound_bus_and_level {s : State} {f : Fsm} (sound : Sound s) (fsm : s.fsm = f) :
    s.busHeld = f.holdsBus ∧ s.cs = f.csLevel := fsm ▸ ⟨sound.bus, sound.chipSelect⟩

/-- Settles O20: a sound state says where the line stands, and each rule of the engine keeps what it says. -/
theorem selectAndDeselectAlternate : Obligations.SelectAndDeselectAlternate := by
  refine ⟨fun c => delays_of_inRange, select_eq, deselect_eq, ?selects, ?deselects, ?inCall, ?fromIdle⟩
  case selects => exact fun s sound fsm => fsm.elim (sound_bus_and_level sound) (sound_bus_and_level sound)
  case deselects => exact fun s sound fsm => fsm.elim (sound_bus_and_level sound) (sound_bus_and_level sound)
  case inCall =>
    intro s l sound wire grown
    exact (resume_alternates sound.chipSelect wire).selectionsAlternate_eq_true grown
  case fromIdle =>
    intro b a t s l sound idle grown
    have high : s.cs = .high := (sound_bus_and_level sound idle).2
    exact high ▸ (call_alternates idle high rfl).selectionsAlternate_eq_true grown

end Sys2Proof.Machine

/-! ### Encode's limits (41_frame_codec.md R130) -/

namespace Sys2Proof.Machine

theorem encodeFrame_of_encodable {ps : List (List Byte)} (within : encodable ps = true) (op : Byte) :
    encodeFrame op ps = .ok (padFrame (frameBody op ps)) := if_pos within

theorem encodeFrame_of_not_encodable {ps : List (List Byte)} (beyond : ¬ encodable ps = true) (op : Byte) :
    encodeFrame op ps = .error .argumentOutOfRange := if_neg beyond

/-- CONNECT's operands pass the check only within a byte's length each (43_command_engine.md R183). -/
theorem credentials_fit_of_operandsOk {c : Cfg} {ssid pass : List Byte}
    (ok : operandsOk c 0x11 (.credentials ssid pass) = true) : ssid.length ≤ 255 ∧ pass.length ≤ 255 := by
  simp only [operandsOk, if_true, fitsByte, Bool.and_eq_true, decide_eq_true_eq] at ok
  obtain ⟨⟨-, ssidFits⟩, passFits⟩ := ok
  exact ⟨ssidFits, passFits⟩

/-- Only CONNECT sends parameters, the two that the argument check has measured. -/
theorem encodable_params_of_argsOk {c : Cfg} {b : Byte} {r : Request} (ok : argsOk c b r = true) :
    encodable (params b (latchArgs c r)) = true := by
  obtain ⟨sel, a, t⟩ := r
  rw [argsOk, Bool.and_eq_true] at ok
  obtain ⟨operands, -⟩ := ok
  obtain ⟨rfl, -⟩ | ⟨rfl, -⟩ | ⟨rfl, ssid, pass, rfl⟩ | ⟨-, -, connect, -⟩ := shape_of_operandsOk operands
  · rfl
  · rfl
  · obtain ⟨ssidFits, passFits⟩ := credentials_fit_of_operandsOk operands
    rw [encodable_iff]
    simp [params, latchArgs, ssidFits, passFits]
  · rw [params, if_neg connect]
    rfl

/-- Settles O5: Encode tests its limits and nothing else, and the engine's argument check implies them. -/
theorem encodeRefusesExactlyBeyondItsLimits : Obligations.EncodeRefusesExactlyBeyondItsLimits := by
  refine ⟨fun op ps within => ?within, fun op ps beyond => ?beyond, fun c b r ok => ?engine⟩
  case within => exact ⟨_, encodeFrame_of_encodable ((encodable_iff ps).2 within) op⟩
  case beyond => exact encodeFrame_of_not_encodable (fun h => beyond ((encodable_iff ps).1 h)) op
  case engine => exact ⟨_, encodeFrame_of_encodable (encodable_params_of_argsOk ok) b⟩

end Sys2Proof.Machine

/-! ### Receive padding (41_frame_codec.md R148) -/

namespace Sys2Proof.Machine

open Sys2Proof.Safety

/-- A byte drained is a byte read and not kept. -/
theorem drain_eq_readBytes (k : Nat) : ∀ s, drain k s = (readBytes k s).2 := by
  induction k with
  | zero => exact fun _ => rfl
  | succ k ih => exact fun s => ih s.rxByte.2

/-- Each byte read is an exchange of the receive phase, whatever the environment answers. -/
theorem readBytes_exchanges (k : Nat) : ∀ s, (readBytes k s).2.rxCount = s.rxCount + k ∧
    (readBytes k s).2.trace = s.trace ++ receivedEvents (readBytes k s).1 := by
  induction k with
  | zero => exact fun s => ⟨rfl, (List.append_nil _).symm⟩
  | succ k ih =>
    intro s
    obtain ⟨count, events⟩ := ih s.rxByte.2
    rw [State.rxByte_frame] at count events
    constructor
    · rw [readBytes, s.rxByte_frame, count]
      simp only
      omega
    · rw [readBytes, s.rxByte_frame, events]
      simp [receivedEvents]

/-- Settles O18: the padding is the drain of what the phase lacks to a multiple of four. -/
theorem receivePaddingAlignsThePhase : Obligations.ReceivePaddingAlignsThePhase := by
  intro s
  constructor
  · intro off
    simp [padRx, off]
  · intro on
    have padding : padRx s = (readBytes (padCount s.rxCount) s).2 := by
      rw [padRx, if_pos on, drain_eq_readBytes]
    obtain ⟨count, events⟩ := readBytes_exchanges (padCount s.rxCount) s
    refine ⟨(readBytes (padCount s.rxCount) s).1, ?_, ?_, ?_, ?_⟩
    · rw [readBytes_length]
      exact padCount_lt s.rxCount
    · rw [padding, count, readBytes_length]
    · rw [padding, count]
      exact padCount_aligns s.rxCount
    · rw [padding, events]

end Sys2Proof.Machine

/-! ### The start-marker hunt (41_frame_codec.md R137) -/

namespace Sys2Proof.Machine

open Sys2Proof.Safety

/-- The state of a hunt after the probes of the bytes `junk`; `ab` and `rest` are what the answer queues hold then. -/
def State.hunted (s : State) (junk : List Byte) (ab : List Level) (rest : List Byte) : State :=
  { s with
    probe := s.probe + junk.length, rxCount := s.rxCount + junk.length, trace := s.trace ++ huntEvents junk,
    env := { s.env with abort := ab, rx := rest } }

section hunt
variable {s : State} {junk rest : List Byte} {ab : List Level}

/-- ABORT ends a hunt before any probe, also before the limit is looked at. -/
theorem hunt_cancelled (k : Nat) (aborts : s.env.abort = .high :: ab) :
    hunt k s = ({ s with env := { s.env with abort := ab }, trace := s.trace ++ [.abt .high] }, some .cancelled) := by
  cases k <;> simp [hunt, s.sampleAbort_cons aborts]

/-- With no probe left the hunt fails, and no byte is read. -/
theorem hunt_exhausted (aborts : s.env.abort = .low :: ab) :
    hunt 0 s = ({ s with env := { s.env with abort := ab }, trace := s.trace ++ [.abt .low] },
      some .framingError) := by
  simp [hunt, s.sampleAbort_cons aborts]

/-- A probe that reads the start marker ends the hunt. -/
theorem hunt_found (k : Nat) (aborts : s.env.abort = .low :: ab) (queued : s.env.rx = Config.startMarker :: rest) :
    hunt (k + 1) s = ({ s.hunted [Config.startMarker] ab rest with marker := true }, none) := by
  simp only [hunt]
  rw [s.sampleAbort_cons aborts]
  simp only [reduceCtorEq, if_false]
  rw [State.rxByte_cons (a := Config.startMarker) (l := rest) _ (by exact queued)]
  simp [State.hunted, huntEvents]

/-- Bytes that are not the start marker use up one probe each. -/
theorem hunt_junk (k : Nat) (others : ∀ b ∈ junk, b ≠ Config.startMarker) : ∀ s : State,
    s.env.abort = List.replicate junk.length .low ++ ab → s.env.rx = junk ++ rest →
    hunt (junk.length + k) s = hunt k (s.hunted junk ab rest) := by
  induction junk with
  | nil =>
    rintro s rfl rfl
    simp [State.hunted, huntEvents]
  | cons a junk ih =>
    intro s aborts queued
    obtain ⟨other, others⟩ := List.forall_mem_cons.1 others
    rw [List.length_cons, Nat.add_right_comm, hunt_other _ s a (junk ++ rest) _ aborts queued other,
      ih others _ rfl rfl]
    congr 1
    simp [State.hunted, huntEvents]
    omega

/-- From a decode's start, the hunt behind the first `junk` bytes, with the probes that are left. -/
theorem findMarker_junk (k : Nat) (limit : s.cfg.probeLimit = junk.length + k) (unmarked : s.marker = false)
    (others : ∀ b ∈ junk, b ≠ Config.startMarker) (aborts : s.env.abort = List.replicate junk.length .low ++ ab)
    (queued : s.env.rx = junk ++ rest) :
    findMarker s = hunt k (({ s with probe := 0, m := 0 } : State).hunted junk ab rest) := by
  rw [findMarker, if_neg (by simp [unmarked]), limit]
  exact hunt_junk k others { s with probe := 0, m := 0 } aborts queued

end hunt

/-- Settles O9: the junk uses up its probes alike in the three cases, and what stands behind it decides. -/
theorem markerHuntFindsFailsOrIsCancelled : Obligations.MarkerHuntFindsFailsOrIsCancelled := by
  intro s junk rx ab unmarked others
  refine ⟨fun within aborts queued => ?found, fun limit aborts queued => ?fails,
    fun within aborts queued => ?cancelled⟩
  case found =>
    obtain ⟨k, limit⟩ := Nat.exists_eq_add_of_lt within
    rw [List.replicate_succ', List.append_assoc] at aborts
    rw [findMarker_junk (k + 1) limit unmarked others aborts queued, hunt_found k rfl rfl]
    simp [State.hunted, huntEvents, Config.startMarker, Nat.add_assoc]
  case fails =>
    rw [List.replicate_succ', List.append_assoc] at aborts
    rw [findMarker_junk 0 limit.symm unmarked others aborts queued, hunt_exhausted rfl]
    simp [State.hunted]
  case cancelled =>
    obtain ⟨k, limit⟩ := Nat.exists_eq_add_of_le within
    rw [findMarker_junk k limit unmarked others aborts queued, hunt_cancelled k rfl]
    simp [State.hunted]

end Sys2Proof.Machine

/-! ### The error sentinel and the echo (41_frame_codec.md R138, R139) -/

namespace Sys2Proof.Machine

open Sys2Proof.Safety

/-- ERR_CMD at the echo position: it and two bytes more are read, then the padding, also where the echo is that byte. -/
theorem echoCheck_sentinel {s : State} (op : Byte) {x y : Byte} {filler rest : List Byte}
    (padding : filler.length = fillerCount s.cfg (s.rxCount + 3))
    (queued : s.env.rx = s.cfg.errCmd :: x :: y :: (filler ++ rest)) :
    echoCheck op s = ({ s.received (s.cfg.errCmd :: x :: y :: filler) rest with marker := false },
      some .deviceErrorReply) := by
  have two (t : State) (behind : t.env.rx = [x, y] ++ (filler ++ rest)) :
      drain 2 t = t.received [x, y] (filler ++ rest) := drain_queued [x, y] t _ behind
  simp only [echoCheck, s.rxByte_queued _ _ queued, if_true]
  rw [two _ rfl, padRx_queued _ filler rest rfl (by exact padding)]
  simp [State.received]
  omega

/-- The echo of the operation passes, and is the one byte read (41_frame_codec.md R139). -/
theorem echoCheck_echo {s : State} {op : Byte} {rest : List Byte} (queued : s.env.rx = replyOp op :: rest)
    (notSentinel : replyOp op ≠ s.cfg.errCmd) :
    echoCheck op s = ({ s.received [replyOp op] rest with marker := false }, none) := by
  simp [echoCheck, s.rxByte_queued _ rest queued, notSentinel]

/-- Settles O10: the sentinel is tested first. -/
theorem errorSentinelBeatsTheEcho : Obligations.ErrorSentinelBeatsTheEcho := by
  intro op x y filler rx s padding queued
  rw [echoCheck_sentinel op padding queued]
  simp [State.received, receivedEvents]
  omega

/-- Settles O11: past the sentinel, the byte either is the echo or is not. -/
theorem echoMustBeTheRequestWithReplyBit : Obligations.EchoMustBeTheRequestWithReplyBit := by
  intro op e rx s notSentinel queued
  by_cases echo : e = (op &&& 0x7F) ||| 0x80
  · subst echo
    rw [if_pos rfl]
    exact echoCheck_echo queued notSentinel
  · rw [if_neg echo]
    exact echoCheck_other queued notSentinel echo

end Sys2Proof.Machine

/-! ### A single value: its count, its shape, its terminator (41_frame_codec.md R140-R143) -/

namespace Sys2Proof.Machine

open Sys2Proof.Safety

/-- The count byte is stored, and only the count 1 goes on to the value. -/
theorem singleBody_queued {s : State} (cap : Nat) (exact : Option Nat) {c : Byte} {rest : List Byte}
    (queued : s.env.rx = c :: rest) :
    singleBody cap exact s =
      if c = 1 then finishFrame (readValue cap exact { s.received [c] rest with n := c })
      else ({ s.received [c] rest with n := c }, some .paramCountMismatch) := by
  simp only [singleBody, s.rxByte_queued c rest queued]

/-- Settles O12. -/
theorem singleCountOtherThanOneStops : Obligations.SingleCountOtherThanOneStops :=
  fun _ cap exact _ _ queued => singleBody_queued cap exact queued

/-- What is wrong with a single value of so many bytes (41_frame_codec.md R142); a value without an exact width may be
empty. -/
def valueShape (cap : Nat) (exact : Option Nat) (len : Nat) : Option ErrorKind :=
  if cap < len then some .bufferTooSmall
  else if len < exact.getD 0 then some .shortValue
  else none

theorem latchShape_of_unlatched {s : State} (cap : Nat) (exact : Option Nat) (len : Nat) (unlatched : s.err = none) :
    latchShape cap exact len s = { s with err := valueShape cap exact len } := by
  have unchanged : s = { s with err := none } := by rw [← unlatched]
  unfold latchShape valueShape
  split_ifs with long short
  · exact s.latch_none .bufferTooSmall unlatched
  · cases exact with
    | none => exact absurd short (Nat.not_lt_zero len)
    | some w => exact (if_pos short).trans (s.latch_none .shortValue unlatched)
  · cases exact with
    | none => exact unchanged
    | some w => exact (if_neg short).trans unchanged

/-- A single value is read whole whatever its shape; a wrong shape is latched, a right one stored in slot 0. -/
theorem readValue_queued {s : State} (cap : Nat) (exact : Option Nat) {len : Byte} {payload rest : List Byte}
    (unlatched : s.err = none) (length : payload.length = len.toNat) (queued : s.env.rx = len :: (payload ++ rest)) :
    readValue cap exact s = { s.received (len :: payload) rest with
      err := valueShape cap exact payload.length,
      slots := if valueShape cap exact payload.length = none then payload :: s.slots.drop 1 else s.slots,
      m := if valueShape cap exact payload.length = none then 1 else s.m } := by
  have latched := latchShape_of_unlatched (s := s.received [len] (payload ++ rest)) cap exact payload.length unlatched
  simp only [readValue, s.rxByte_queued len _ queued, ← length, latched]
  rw [readBytes_queued payload _ rest rfl]
  cases valueShape cap exact payload.length with
  | some e => simp [State.received, Nat.add_assoc, Nat.add_comm 1]
  | none => simp [State.received, State.store, storeSlot, Nat.add_assoc, Nat.add_comm 1]

/-- Settles O13: the shape is latched before the payload is read, and the terminator is judged behind the padding. -/
theorem singleValueIsReadWholeThenJudged : Obligations.SingleValueIsReadWholeThenJudged := by
  intro len term cap exact payload filler rx s unlatched length padding queued shape t
  have judged : shape = valueShape cap exact payload.length := rfl
  have padding' : filler.length = fillerCount s.cfg (s.rxCount + 1 + (payload.length + 1) + 1) := by
    rw [padding]
    congr 1
    omega
  have exchanges : s.rxCount + 1 + (payload.length + 1) + (filler.length + 1)
      = s.rxCount + (3 + payload.length) + filler.length := by omega
  rw [singleBody_queued cap exact queued, if_pos rfl, readValue_queued cap exact (by exact unlatched) length rfl,
    finishFrame_queued _ term filler rx rfl (by exact padding'), judged,
    show (0xEE : Byte) = Config.endMarker from rfl]
  cases valueShape cap exact payload.length with
  | some e => simp [t, State.received, receivedEvents, exchanges]
  | none => simp [t, State.received, receivedEvents, exchanges, unlatched]

end Sys2Proof.Machine

/-! ### Every byte exchange is selected (40_handshake.md R116, R117; 41_frame_codec.md R134) -/

namespace Sys2Proof.Machine

open Sys2Proof.Safety

theorem exchangesSelected_cons {v : Level} {e : Event} (other : isChipSelectEvent e = false)
    (allowed : isExchange e = true → v = .low) (l : List Event) :
    exchangesSelected v (e :: l) = exchangesSelected v l := by
  cases e with
  | set line | clr line =>
    cases line with
    | cs => cases other
    | ready | reset | boot => cases v <;> rfl
  | x o i => rw [allowed rfl]; rfl
  | _ => cases v <;> rfl

theorem exchangesSelected_append {v : Level} {l : List Event} (others : ∀ e ∈ l, isChipSelectEvent e = false)
    (allowed : ∀ e ∈ l, isExchange e = true → v = .low) (rest : List Event) :
    exchangesSelected v (l ++ rest) = exchangesSelected v rest := by
  induction l with
  | nil => rfl
  | cons e l ih =>
    obtain ⟨other, others⟩ := List.forall_mem_cons.1 others
    obtain ⟨here, allowed⟩ := List.forall_mem_cons.1 allowed
    rw [List.cons_append, exchangesSelected_cons other here, ih others allowed]

/-- Every exchange between the two states is selected, from the chip-select level of the first to that of the second:
what follows is selected after these events exactly if it is from the second level. -/
def SelectsExchanges (s t : State) : Prop :=
  ∃ l, t.trace = s.trace ++ l ∧
    ∀ rest, exchangesSelected s.cs (l ++ rest) = exchangesSelected t.cs rest

theorem SelectsExchanges.refl (s : State) : SelectsExchanges s s := ⟨[], by simp, fun _ => rfl⟩

theorem SelectsExchanges.trans {s t u : State} (h : SelectsExchanges s t) (k : SelectsExchanges t u) :
    SelectsExchanges s u := by
  obtain ⟨l, grown, selected⟩ := h
  obtain ⟨r, grown', selected'⟩ := k
  exact ⟨l ++ r, by rw [grown', grown, List.append_assoc], fun rest => by
    rw [List.append_assoc, selected, selected']⟩

/-- All exchanges that were added to the trace are selected. -/
theorem SelectsExchanges.exchangesSelected_eq_true {s t : State} {l : List Event} (h : SelectsExchanges s t)
    (grown : t.trace = s.trace ++ l) : exchangesSelected s.cs l = true := by
  obtain ⟨r, grown', selected⟩ := h
  obtain rfl : r = l := List.append_cancel_left (grown'.symm.trans grown)
  simpa [exchangesSelected] using selected []

/-- What leaves chip-select alone while it is active may exchange bytes. -/
theorem LeavesChipSelect.selects_of_low {s t : State} (h : LeavesChipSelect s t) (low : s.cs = .low) :
    SelectsExchanges s t := by
  obtain ⟨l, grown, others⟩ := h.grows
  exact ⟨l, grown, fun rest => by rw [h.cs, exchangesSelected_append others fun _ _ _ => low]⟩

/-- No byte is exchanged between the two states. -/
def MovesNoByte (s t : State) : Prop := ∃ l, t.trace = s.trace ++ l ∧ ∀ e ∈ l, isExchange e = false

theorem MovesNoByte.silent {s t : State} (trace : t.trace = s.trace) : MovesNoByte s t :=
  ⟨[], by simp [trace], by simp⟩

theorem MovesNoByte.one {s t : State} {e : Event} (trace : t.trace = s.trace ++ [e]) (other : isExchange e = false) :
    MovesNoByte s t := ⟨[e], trace, by simpa using other⟩

/-- What leaves chip-select alone and moves no byte may happen at either level. -/
theorem LeavesChipSelect.selects_of_movesNoByte {s t : State} (h : LeavesChipSelect s t) (k : MovesNoByte s t) :
    SelectsExchanges s t := by
  obtain ⟨l, grown, others⟩ := h.grows
  obtain ⟨r, grown', noByte⟩ := k
  obtain rfl : r = l := List.append_cancel_left (grown'.symm.trans grown)
  refine ⟨r, grown, fun rest => ?_⟩
  rw [h.cs, exchangesSelected_append others fun e mem exchange => ?_]
  rw [noByte e mem] at exchange
  cases exchange

theorem settle_waitReady_movesNoByte (next : Fsm) (s : State) : MovesNoByte s (settle next (waitReady s)) := by
  obtain ⟨l, grown, wait⟩ := (waitReady_spec s).1.emits.grows
  exact ⟨l, (settle_trace next _).trans grown, fun e mem => isExchange_of_isWaitEvent (wait e mem)⟩

theorem actAcquire_movesNoByte (s : State) : MovesNoByte s (actAcquire s) := by
  unfold actAcquire
  split
  · exact .silent s.takeBus_trace
  · exact .one (e := .acq) (by simp) rfl

theorem State.returnFromError_movesNoByte (s : State) : MovesNoByte s s.returnFromError := by
  unfold State.returnFromError
  split
  · exact .one rfl rfl
  · exact .silent rfl

/-- The engine states whose rule exchanges bytes, the send and the receive, are states with chip-select active. -/
theorem action_movesNoByte {s : State} (high : s.fsm.csLevel = .high) (other : s.fsm.drivesChipSelect = false) :
    MovesNoByte s (action s) := by
  unfold action
  cases fsm : s.fsm with
  | sendFrame | receiveFrame => simp [fsm, Fsm.csLevel] at high
  | selectTx | deselectTx | selectRx | deselectRx | resetSeq => simp [fsm, Fsm.drivesChipSelect] at other
  | idle => exact .silent rfl
  | acquireBus => exact actAcquire_movesNoByte s
  | awaitReadyTx => exact settle_waitReady_movesNoByte .selectTx s
  | awaitReadyRx => exact settle_waitReady_movesNoByte .selectRx s
  | releaseBus => exact .one rfl rfl
  | done => exact .one rfl rfl
  | failed => exact s.returnFromError_movesNoByte

theorem select_selectsExchanges (s : State) : SelectsExchanges s (select s) :=
  ⟨[.clr .cs], rfl, fun rest => by simp [exchangesSelected, select_eq]⟩

theorem deselect_selectsExchanges (s : State) : SelectsExchanges s (deselect s) :=
  ⟨deselectEvents s.cfg, by rw [deselect_eq]; rfl, fun rest => by
    simp [exchangesSelected, deselect_eq, deselectEvents]⟩

theorem actResetSeq_selectsExchanges (s : State) : SelectsExchanges s (actResetSeq s) :=
  ⟨resetTrace s.cfg ++ [.resp (.ok .unit)], by simp [actResetSeq, resetSequence_eq], fun rest => by
    cases s.cs <;> simp [exchangesSelected, actResetSeq, resetSequence_eq, resetTrace]⟩

/-- A rule that drives chip-select exchanges no byte, and any other exchanges bytes at the active level only. -/
theorem action_selectsExchanges {s : State} (level : s.cs = s.fsm.csLevel) : SelectsExchanges s (action s) := by
  by_cases drives : s.fsm.drivesChipSelect = true
  · unfold action
    cases fsm : s.fsm with
    | selectTx | selectRx => exact select_selectsExchanges s
    | deselectTx | deselectRx => exact deselect_selectsExchanges s
    | resetSeq => exact actResetSeq_selectsExchanges s
    | _ => simp [fsm, Fsm.drivesChipSelect] at drives
  · have other := Bool.eq_false_of_not_eq_true drives
    have leaves := action_leavesChipSelect other
    cases cs : s.fsm.csLevel with
    | low => exact leaves.selects_of_low (level.trans cs)
    | high => exact leaves.selects_of_movesNoByte (action_movesNoByte cs other)

theorem resume_selectsExchanges {s : State} (level : s.cs = s.fsm.csLevel) : SelectsExchanges s (resume s) := by
  have kept := run_keeps (P := fun t => t.cs = t.fsm.csLevel ∧ SelectsExchanges s t)
    (fun t _ ⟨level, selects⟩ => ⟨action_level level, selects.trans (action_selectsExchanges level)⟩)
    callLength s ⟨level, .refl s⟩
  exact kept.2

/-- An accept in Idle enters a state in which chip-select is high. -/
theorem accept_csLevel {s : State} (idle : s.fsm = .idle) (r : Request) : (accept r s).fsm.csLevel = .high := by
  unfold accept
  dsimp only
  split
  · rfl
  · split
    · rfl
    · rw [State.takeError_frame]
      simp [idle, errorExit, Fsm.csLevel]

theorem call_selectsExchanges {s : State} (idle : s.fsm = .idle) (high : s.cs = .high) (r : Request) :
    SelectsExchanges s (call r s) := by
  have leaves : LeavesChipSelect s (accept r s) := .one (accept_cs r s) (accept_trace r s) rfl
  have accepted := leaves.selects_of_movesNoByte (.one (accept_trace r s) rfl)
  exact accepted.trans (resume_selectsExchanges (by rw [accept_cs, high, accept_csLevel idle]))

/-- Settles O35: chip-select has its level for the engine state all along a run, and only the states where it is active
exchange bytes. -/
theorem everyExchangeIsSelected : Obligations.EveryExchangeIsSelected := by
  refine ⟨fun r s l idle high grown => ?call, fun s l acquiring high grown => ?held⟩
  case call => exact high ▸ (call_selectsExchanges idle high r).exchangesSelected_eq_true grown
  case held =>
    have level : s.cs = s.fsm.csLevel := by rw [high, acquiring]; rfl
    exact high ▸ (resume_selectsExchanges level).exchangesSelected_eq_true grown

end Sys2Proof.Machine

/-! ### A list response: its fields on the wire, and what the list body makes of them (42_demux.md R162-R169) -/

namespace Sys2Proof.Machine

open Sys2Proof.Safety

/-- The registers in which a list body leaves its outcome; the bytes it reads touch none of them. -/
structure ListRegs where
  n : Byte
  m : Nat
  truncated : Bool
  err : Option ErrorKind
  slots : List (List Byte)

/-- Those registers of a state. -/
def State.listRegs (s : State) : ListRegs := ⟨s.n, s.m, s.truncated, s.err, s.slots⟩

/-- The state with these values in them, and all else as it is. -/
def State.withListRegs (s : State) (r : ListRegs) : State :=
  { s with n := r.n, m := r.m, truncated := r.truncated, err := r.err, slots := r.slots }

theorem State.withListRegs_withListRegs (s : State) (r q : ListRegs) :
    (s.withListRegs r).withListRegs q = s.withListRegs q := rfl

theorem State.withListRegs_listRegs (s : State) : s.withListRegs s.listRegs = s := rfl

/-! #### Reading bytes does not look at these registers, and leaves them alone -/

theorem State.rxByte_withListRegs (s : State) (r : ListRegs) :
    (s.withListRegs r).rxByte = (s.rxByte.1, s.rxByte.2.withListRegs r) := by
  cases queued : s.env.rx with
  | nil =>
    have queued' : (s.withListRegs r).env.rx = [] := queued
    simp only [State.rxByte, State.takeRx, queued, queued']
    rfl
  | cons a rest =>
    rw [s.rxByte_cons queued, (s.withListRegs r).rxByte_cons queued]
    rfl

theorem readBytes_withListRegs (k : Nat) (r : ListRegs) : ∀ s : State,
    readBytes k (s.withListRegs r) = ((readBytes k s).1, (readBytes k s).2.withListRegs r) := by
  induction k with
  | zero => exact fun s => rfl
  | succ k ih => exact fun s => by simp only [readBytes, State.rxByte_withListRegs, ih]

theorem padRx_withListRegs (s : State) (r : ListRegs) : padRx (s.withListRegs r) = (padRx s).withListRegs r := by
  simp only [padRx, drain_eq_readBytes, State.withListRegs]
  split
  · exact congrArg Prod.snd (readBytes_withListRegs _ r s)
  · rfl

/-- One parameter field: its length byte, then its payload. -/
def readField (s : State) : List Byte × State := readBytes s.rxByte.1.toNat s.rxByte.2

/-- So many parameter fields, in the order received. -/
def readFields : Nat → State → List (List Byte) × State
  | 0, s => ([], s)
  | k + 1, s => ((readField s).1 :: (readFields k (readField s).2).1, (readFields k (readField s).2).2)

theorem readField_withListRegs (s : State) (r : ListRegs) :
    readField (s.withListRegs r) = ((readField s).1, (readField s).2.withListRegs r) := by
  simp only [readField, State.rxByte_withListRegs, readBytes_withListRegs]

theorem readFields_withListRegs (k : Nat) (r : ListRegs) : ∀ s : State,
    readFields k (s.withListRegs r) = ((readFields k s).1, (readFields k s).2.withListRegs r) := by
  induction k with
  | zero => exact fun s => rfl
  | succ k ih => exact fun s => by simp only [readFields, readField_withListRegs, ih]

theorem State.rxByte_listRegs (s : State) : s.rxByte.2.listRegs = s.listRegs := by
  rw [s.rxByte_frame]
  rfl

theorem readBytes_listRegs (k : Nat) : ∀ s, (readBytes k s).2.listRegs = s.listRegs := by
  induction k with
  | zero => exact fun s => rfl
  | succ k ih => exact fun s => (ih s.rxByte.2).trans s.rxByte_listRegs

theorem readField_listRegs (s : State) : (readField s).2.listRegs = s.listRegs :=
  (readBytes_listRegs _ _).trans s.rxByte_listRegs

theorem padRx_listRegs (s : State) : (padRx s).listRegs = s.listRegs := by
  rw [padRx, drain_eq_readBytes]
  split
  · exact readBytes_listRegs _ s
  · rfl

theorem readFields_length (k : Nat) : ∀ s, (readFields k s).1.length = k := by
  induction k with
  | zero => exact fun s => rfl
  | succ k ih => exact fun s => by rw [readFields, List.length_cons, ih]

/-! #### The records within the clamp (42_demux.md R164) -/

/-- A record within the clamp: once an error is latched it changes nothing; too long, it is an error; else it is
stored. -/
def ListRegs.record (r : ListRegs) (recCap i : Nat) (p : List Byte) : ListRegs :=
  match r.err with
  | some _ => r
  | none =>
    if recCap < p.length then { r with err := some .bufferTooSmall }
    else { r with slots := storeSlot r.slots i p }

/-- Records within the clamp, the first of them number `i`. -/
def ListRegs.records (recCap : Nat) : Nat → List (List Byte) → ListRegs → ListRegs
  | _, [], r => r
  | i, p :: ps, r => records recCap (i + 1) ps (r.record recCap i p)

theorem ListRegs.record_m (r : ListRegs) (recCap i : Nat) (p : List Byte) : (r.record recCap i p).m = r.m := by
  unfold ListRegs.record
  split
  · rfl
  · split <;> rfl

theorem State.latch_eq_withListRegs (s : State) (e : ErrorKind) : s.latch e = s.withListRegs (s.latch e).listRegs := by
  cases err : s.err with
  | none => rw [s.latch_none e err]; rfl
  | some d => rw [s.latch_some e err]; rfl

/-- The latch before a record's payload and the store behind it are one record. -/
theorem store_of_latch_long (recCap i : Nat) (p : List Byte) (s t : State) :
    (t.withListRegs (if recCap < p.length then s.latch .bufferTooSmall else s).listRegs).store i p
      = t.withListRegs (s.listRegs.record recCap i p) := by
  cases err : s.err with
  | some e =>
    rw [s.latch_some .bufferTooSmall err, ite_self]
    simp [State.store, ListRegs.record, State.withListRegs, State.listRegs, err]
  | none =>
    rw [s.latch_none .bufferTooSmall err]
    by_cases long : recCap < p.length
    · simp [State.store, ListRegs.record, State.withListRegs, State.listRegs, err, long]
    · simp [State.store, ListRegs.record, State.withListRegs, State.listRegs, err, long]

theorem readRecord_eq_readField (recCap i : Nat) (s : State) : readRecord recCap i s =
    (readField s).2.withListRegs (s.listRegs.record recCap i (readField s).1) := by
  have length : s.rxByte.1.toNat = (readField s).1.length := (readBytes_length _ _).symm
  have latched : (if recCap < s.rxByte.1.toNat then s.rxByte.2.latch .bufferTooSmall else s.rxByte.2)
      = s.rxByte.2.withListRegs
          (if recCap < (readField s).1.length then s.rxByte.2.latch .bufferTooSmall else s.rxByte.2).listRegs := by
    rw [length]
    split
    · exact s.rxByte.2.latch_eq_withListRegs .bufferTooSmall
    · rfl
  simp only [readRecord]
  rw [latched, readBytes_withListRegs, ← s.rxByte_listRegs]
  exact store_of_latch_long recCap i _ s.rxByte.2 _

theorem drainRecord_eq_readField (s : State) : drainRecord s = (readField s).2 := drain_eq_readBytes _ _

/-- The loop of the list body, whatever the environment answers: it reads so many fields, and makes records of those
within the clamp. -/
theorem readRecords_eq_readFields (recCap left : Nat) : ∀ (i : Nat) (s : State), readRecords recCap left i s =
    (readFields left s).2.withListRegs (s.listRegs.records recCap i ((readFields left s).1.take (s.m - i))) := by
  induction left with
  | zero => exact fun i s => by simp [readRecords, readFields, ListRegs.records, s.withListRegs_listRegs]
  | succ left ih =>
    intro i s
    rw [readRecords, readFields]
    by_cases within : i < s.m
    · have room : s.m - i = s.m - (i + 1) + 1 := by omega
      have clamp (p : List Byte) : ((readField s).2.withListRegs (s.listRegs.record recCap i p)).m = s.m :=
        s.listRegs.record_m recCap i p
      rw [if_pos within, readRecord_eq_readField, ih, readFields_withListRegs, clamp, room]
      rfl
    · have noRoom : s.m - i = 0 := by omega
      have noRoomBehind : s.m - (i + 1) = 0 := by omega
      have clamp : (readField s).2.m = s.m := congrArg ListRegs.m (readField_listRegs s)
      rw [if_neg within, drainRecord_eq_readField, ih, clamp, readField_listRegs, noRoom, noRoomBehind]
      rfl

/-! #### The whole list body -/

/-- What is wrong with a terminator (41_frame_codec.md R143). -/
def terminatorError (t : Byte) : Option ErrorKind := if t = Config.endMarker then none else some .missingTerminator

/-- The end of a frame reports a latched error first, and writes none of these registers. -/
theorem finishFrame_withListRegs (s : State) (r : ListRegs) : finishFrame (s.withListRegs r) =
    ((padRx s.rxByte.2).withListRegs r, r.err.or (terminatorError s.rxByte.1)) := by
  simp only [finishFrame, State.rxByte_withListRegs, padRx_withListRegs]
  cases err : r.err with
  | some e => simp [State.withListRegs, err]
  | none =>
    by_cases marker : s.rxByte.1 = Config.endMarker <;> simp [State.withListRegs, err, terminatorError, marker]

/-- The count and the clamp (42_demux.md R162, R163). -/
def ListRegs.counted (r : ListRegs) (maxParams : Nat) (c : Byte) : ListRegs :=
  { r with n := c, m := min c.toNat maxParams, truncated := truncatedFlag c (min c.toNat maxParams) }

/-- What a list body makes of its count byte and of the fields behind it. -/
def ListRegs.listed (r : ListRegs) (maxParams recCap : Nat) (c : Byte) (fields : List (List Byte)) : ListRegs :=
  (r.counted maxParams c).records recCap 0 (fields.take (min c.toNat maxParams))

/-- The fields a list body reads behind its count byte, with the state before the terminator. -/
def State.listFields (s : State) : List (List Byte) × State := readFields s.rxByte.1.toNat s.rxByte.2

/-- The list body, whatever the environment answers: its capacities decide on the registers, and not on what is read. -/
theorem listBody_eq_listFields (maxParams recCap : Nat) (s : State) : listBody maxParams recCap s =
    let r := s.listRegs.listed maxParams recCap s.rxByte.1 s.listFields.1
    ((padRx s.listFields.2.rxByte.2).withListRegs r, r.err.or (terminatorError s.listFields.2.rxByte.1)) := by
  have counted (c : Byte) (m : Nat) :
      { s.rxByte.2 with n := c, m := m, truncated := truncatedFlag c m }
        = s.rxByte.2.withListRegs { s.listRegs with n := c, m := m, truncated := truncatedFlag c m } := by
    rw [← s.rxByte_listRegs]
    rfl
  simp only [listBody]
  rw [counted, readRecords_eq_readFields, readFields_withListRegs, State.withListRegs_withListRegs,
    finishFrame_withListRegs]
  rfl

/-! #### What is stored -/

/-- Behind an error nothing is stored, and the error stays. -/
theorem ListRegs.records_of_latched {e : ErrorKind} (recCap : Nat) (ps : List (List Byte)) :
    ∀ (i : Nat) (r : ListRegs), r.err = some e → r.records recCap i ps = r := by
  induction ps with
  | nil => exact fun _ _ _ => rfl
  | cons p ps ih =>
    intro i r latched
    have unchanged : r.record recCap i p = r := by simp [ListRegs.record, latched]
    rw [ListRegs.records, unchanged, ih _ r latched]

/-- The records up to the first that is too long. -/
def keptRecords (recCap : Nat) (ps : List (List Byte)) : List (List Byte) :=
  ps.takeWhile (fun p => decide (p.length ≤ recCap))

section storeSlot
variable {slots : List (List Byte)} {i : Nat} (place : i ≤ slots.length) (p : List Byte)
include place

theorem length_lt_storeSlot : i < (storeSlot slots i p).length := by
  simp only [storeSlot, List.length_append, List.length_take, List.length_cons]
  omega

theorem take_storeSlot : (storeSlot slots i p).take (i + 1) = slots.take i ++ [p] := by
  have before : (slots.take i).length = i := List.length_take_of_le place
  simp [storeSlot, List.take_append, before]

theorem drop_storeSlot (k : Nat) : (storeSlot slots i p).drop (i + (k + 1)) = slots.drop (i + (k + 1)) := by
  have before : (slots.take i).length = i := List.length_take_of_le place
  rw [storeSlot, List.drop_append, before, List.drop_eq_nil_of_le (by omega), Nat.add_sub_cancel_left]
  simp [Nat.add_assoc, Nat.add_comm 1]

end storeSlot

theorem length_le_of_mem_keptRecords {recCap : Nat} {ps : List (List Byte)} {p : List Byte}
    (mem : p ∈ keptRecords recCap ps) : p.length ≤ recCap := by
  have fits := List.mem_takeWhile_imp mem
  exact of_decide_eq_true fits

/-- With no error latched, records are stored one behind the other up to the first that is too long, which is the
error. -/
theorem ListRegs.records_of_unlatched (recCap : Nat) (ps : List (List Byte)) :
    ∀ (i : Nat) (r : ListRegs), r.err = none → i ≤ r.slots.length → r.records recCap i ps =
      { r with
        err := if (keptRecords recCap ps).length < ps.length then some .bufferTooSmall else none,
        slots := r.slots.take i ++ keptRecords recCap ps ++ r.slots.drop (i + (keptRecords recCap ps).length) } := by
  induction ps with
  | nil =>
    intro i r unlatched _
    simp [ListRegs.records, keptRecords, ← unlatched]
  | cons p ps ih =>
    intro i r unlatched place
    rw [ListRegs.records]
    by_cases long : recCap < p.length
    · have recorded : r.record recCap i p = { r with err := some .bufferTooSmall } := by
        simp [ListRegs.record, unlatched, long]
      rw [recorded, ListRegs.records_of_latched recCap ps (i + 1) _ rfl]
      simp [keptRecords, long]
    · have recorded : r.record recCap i p = { r with slots := storeSlot r.slots i p } := by
        simp [ListRegs.record, unlatched, long]
      have kept : keptRecords recCap (p :: ps) = p :: keptRecords recCap ps := by
        simp [keptRecords, Nat.le_of_not_lt long]
      have behind : i + 1 + (keptRecords recCap ps).length = i + ((keptRecords recCap ps).length + 1) := by omega
      rw [recorded, ih (i + 1) { r with slots := storeSlot r.slots i p } unlatched (length_lt_storeSlot place p), kept]
      dsimp only
      rw [take_storeSlot place, behind, drop_storeSlot place]
      simp

/-- With no error latched, those within the clamp up to the first that is too long are stored. -/
theorem ListRegs.listed_of_unlatched {r : ListRegs} (unlatched : r.err = none) (maxParams recCap : Nat) (c : Byte)
    (fields : List (List Byte)) : r.listed maxParams recCap c fields =
      let within := fields.take (min c.toNat maxParams)
      { r.counted maxParams c with
        err := if (keptRecords recCap within).length < within.length then some .bufferTooSmall else none,
        slots := keptRecords recCap within ++ r.slots.drop (keptRecords recCap within).length } := by
  rw [ListRegs.listed, ListRegs.records_of_unlatched _ _ _ _ (by exact unlatched) (Nat.zero_le _), List.take_zero,
    List.nil_append, Nat.zero_add]
  rfl

theorem ListRegs.listed_of_latched {r : ListRegs} {e : ErrorKind} (latched : r.err = some e) (maxParams recCap : Nat)
    (c : Byte) (fields : List (List Byte)) : r.listed maxParams recCap c fields = r.counted maxParams c :=
  ListRegs.records_of_latched _ _ _ _ latched

/-- Records leave the count, the clamp and the truncation flag alone. -/
theorem ListRegs.listed_counts (r : ListRegs) (maxParams recCap : Nat) (c : Byte) (fields : List (List Byte)) :
    r.listed maxParams recCap c fields = { r.counted maxParams c with
      err := (r.listed maxParams recCap c fields).err, slots := (r.listed maxParams recCap c fields).slots } := by
  cases err : r.err with
  | none => rw [ListRegs.listed_of_unlatched err]
  | some e => rw [ListRegs.listed_of_latched err]

theorem terminatorError_eq (t : Byte) : terminatorError t = none ∨ terminatorError t = some .missingTerminator :=
  ite_eq_or_eq _ _ _

/-- Settles O14: no value of the count is an error, so what is left is the records' error and the terminator's. -/
theorem listCountIsClampedWithoutError : Obligations.ListCountIsClampedWithoutError := by
  intro maxParams recCap s c r
  have body : r = _ := listBody_eq_listFields maxParams recCap s
  rw [body, s.listRegs.listed_counts]
  refine ⟨rfl, rfl, rfl, fun unlatched => ?_⟩
  have before : s.listRegs.err = none := unlatched
  rw [ListRegs.listed_of_unlatched before]
  dsimp only
  split
  · exact .inr (.inl rfl)
  · exact (terminatorError_eq _).imp_right .inr

/-! #### The records queued -/

theorem readField_queued (p rest : List Byte) (s : State) (fits : p.length ≤ 255)
    (queued : s.env.rx = paramField p ++ rest) : readField s = (p, s.received (paramField p) rest) := by
  rw [readField, s.rxByte_queued _ (p ++ rest) queued]
  dsimp only
  rw [length_byte p fits, readBytes_queued p _ rest rfl, State.received_received]
  rfl

/-- The count byte of at most 255 records is their number. -/
theorem count_byte {records : List (List Byte)} (count : records.length ≤ 255) :
    (BitVec.ofNat 8 records.length).toNat = records.length := by
  rw [BitVec.toNat_ofNat]
  omega

theorem readFields_queued (ps : List (List Byte)) : ∀ (rest : List Byte) (s : State), (∀ p ∈ ps, p.length ≤ 255) →
    s.env.rx = ps.flatMap paramField ++ rest →
    readFields ps.length s = (ps, s.received (ps.flatMap paramField) rest) := by
  induction ps with
  | nil => exact fun rest s _ queued => by rw [List.flatMap_nil, s.received_nil rest queued]; rfl
  | cons p ps ih =>
    intro rest s fits queued
    obtain ⟨here, fits⟩ := List.forall_mem_cons.1 fits
    rw [List.flatMap_cons, List.append_assoc] at queued
    rw [List.length_cons, readFields, readField_queued p _ s here queued, ih rest _ fits rfl, State.received_received]
    rfl

theorem State.listFields_queued {s : State} {records : List (List Byte)} {rest : List Byte}
    (count : records.length ≤ 255) (fits : ∀ p ∈ records, p.length ≤ 255)
    (queued : s.env.rx = BitVec.ofNat 8 records.length :: (records.flatMap paramField ++ rest)) :
    s.listFields = (records, s.received (BitVec.ofNat 8 records.length :: records.flatMap paramField) rest) := by
  rw [State.listFields, s.rxByte_queued _ _ queued]
  dsimp only
  rw [count_byte count, readFields_queued records rest _ fits rfl, State.received_received]
  rfl

/-- A list body with its bytes queued (42_demux.md R162-R165): all of them are read. -/
theorem listBody_queued {s : State} (maxParams recCap : Nat) {records : List (List Byte)} {term : Byte}
    {filler rest : List Byte} (count : records.length ≤ 255) (fits : ∀ p ∈ records, p.length ≤ 255) :
    let c := BitVec.ofNat 8 records.length
    let wire := c :: (records.flatMap paramField ++ [term])
    let r := s.listRegs.listed maxParams recCap c records
    filler.length = fillerCount s.cfg (s.rxCount + wire.length) → s.env.rx = wire ++ filler ++ rest →
    listBody maxParams recCap s =
      ((s.received (wire ++ filler) rest).withListRegs r, r.err.or (terminatorError term)) := by
  intro c wire r padding queued
  have queued' : s.env.rx = c :: (records.flatMap paramField ++ term :: (filler ++ rest)) := by simp [queued, wire]
  have padding' : filler.length = fillerCount s.cfg (s.rxCount + (c :: records.flatMap paramField).length + 1) := by
    simp [padding, wire, Nat.add_assoc]
  rw [listBody_eq_listFields, s.rxByte_queued _ _ queued', State.listFields_queued count fits queued']
  dsimp only
  rw [State.rxByte_queued _ term _ rfl, padRx_queued _ filler rest rfl (by exact padding')]
  simp [State.received_received, wire, r, c]

/-- Settles O15: the clamp cuts the fields that are read into those that are judged and those that are not. -/
theorem listRecordsAreStoredWithinTheClamp : Obligations.ListRecordsAreStoredWithinTheClamp := by
  intro maxParams recCap records term filler rx s unlatched count fits wire padding queued m kept r
  have body : r = _ := listBody_queued maxParams recCap count fits padding queued
  have before : s.listRegs.err = none := unlatched
  have within : (records.take m).length = m := by simp [m]
  rw [body, ListRegs.listed_of_unlatched before, count_byte count]
  refine ⟨rfl, rfl, ?clamp, rfl, ?error⟩
  case clamp => exact congrArg (min · maxParams) (count_byte count)
  case error =>
    change Option.or (if kept.length < (records.take m).length then _ else _) _ = _
    rw [within]
    split <;> rfl

/-! #### Two capacities -/

/-- The start of a list decode, up to its echo; the capacities are not looked at. -/
def listHead (op : Byte) (s : State) : Ended :=
  (findMarker (if s.marker then s else { s with truncated := false })).andThen (echoCheck op)

theorem decodeList_eq_listHead (op : Byte) (maxParams recCap : Nat) (s : State) :
    decodeList op maxParams recCap s = (listHead op s).andThen (listBody maxParams recCap) := rfl

theorem andThen_eq_return {r : Ended} {f : State → Ended} {t : State} (returned : r.andThen f = (t, none)) :
    r.2 = none ∧ f r.1 = (t, none) := by
  obtain ⟨u, e⟩ := r
  cases e with
  | none => exact ⟨rfl, returned⟩
  | some e => cases congrArg Prod.snd returned

theorem andThen_of_return {r : Ended} (returned : r.2 = none) (f : State → Ended) : r.andThen f = f r.1 := by
  simp [Ended.andThen, returned]

theorem keptRecords_eq_self {recCap : Nat} {ps : List (List Byte)}
    (all : ¬ (keptRecords recCap ps).length < ps.length) : keptRecords recCap ps = ps :=
  (List.takeWhile_prefix _).eq_of_length_le (Nat.le_of_not_lt all)

/-- A list body that returns had no error latched, and every record within its clamp was short enough. -/
theorem ListRegs.listed_err_eq_none {r : ListRegs} {maxParams recCap : Nat} {c : Byte} {fields : List (List Byte)}
    (clear : (r.listed maxParams recCap c fields).err = none) :
    r.err = none ∧ ∀ p ∈ fields.take (min c.toNat maxParams), p.length ≤ recCap := by
  cases err : r.err with
  | some e =>
    rw [ListRegs.listed_of_latched err] at clear
    cases err.symm.trans clear
  | none =>
    rw [ListRegs.listed_of_unlatched err] at clear
    simp only [ite_eq_right_iff, reduceCtorEq, imp_false] at clear
    have all := List.takeWhile_eq_self_iff.1 (keptRecords_eq_self clear)
    exact ⟨rfl, fun p mem => of_decide_eq_true (all p mem)⟩

/-- Records that are all short enough are all stored. -/
theorem ListRegs.listed_of_fits {r : ListRegs} {maxParams recCap : Nat} {c : Byte} {fields : List (List Byte)}
    (unlatched : r.err = none) (fits : ∀ p ∈ fields.take (min c.toNat maxParams), p.length ≤ recCap) :
    r.listed maxParams recCap c fields =
      let within := fields.take (min c.toNat maxParams)
      { r.counted maxParams c with slots := within ++ r.slots.drop within.length } := by
  have all : keptRecords recCap (fields.take (min c.toNat maxParams)) = fields.take (min c.toNat maxParams) :=
    List.takeWhile_eq_self_iff.2 fun p mem => decide_eq_true (fits p mem)
  rw [ListRegs.listed_of_unlatched unlatched]
  simp only [all, lt_irrefl, if_false]
  rw [← unlatched]
  rfl

theorem State.listFields_length (s : State) : s.listFields.1.length = s.rxByte.1.toNat := readFields_length _ _

/-- Both bodies read the same, and the records within the smaller clamp are among those that passed. -/
theorem listBody_smaller {t big : State} {recCap c : Nat} (less : c < t.rxByte.1.toNat)
    (larger : listBody t.rxByte.1.toNat recCap t = (big, none)) :
    ∃ small, listBody c recCap t = (small, none) ∧ small.m = c ∧ small.truncated = true
      ∧ small.slots.take c = big.slots.take c ∧ small.trace = big.trace ∧ small.env = big.env := by
  rw [listBody_eq_listFields] at larger
  obtain ⟨rfl, returned⟩ := Prod.mk.inj larger
  obtain ⟨clear, terminated⟩ := Option.or_eq_none_iff.1 returned
  obtain ⟨unlatched, fits⟩ := ListRegs.listed_err_eq_none clear
  have count : t.listFields.1.length = t.rxByte.1.toNat := t.listFields_length
  have clamp : min t.rxByte.1.toNat c = c := Nat.min_eq_right less.le
  have all : t.listFields.1.take (min t.rxByte.1.toNat t.rxByte.1.toNat) = t.listFields.1 := by
    rw [Nat.min_self, List.take_of_length_le count.le]
  have bigRegs := ListRegs.listed_of_fits unlatched fits
  have smallRegs := ListRegs.listed_of_fits (maxParams := c) (c := t.rxByte.1) (fields := t.listFields.1) unlatched
    fun p mem => fits p (by rw [all]; exact List.mem_of_mem_take mem)
  rw [all] at bigRegs
  rw [clamp] at smallRegs
  rw [listBody_eq_listFields]
  simp only [bigRegs, smallRegs]
  refine ⟨_, Prod.ext rfl ?error, clamp, decide_eq_true (by rwa [clamp]), ?slots, rfl, rfl⟩
  case error => simp [ListRegs.counted, unlatched, terminated]
  case slots =>
    change (t.listFields.1.take c ++ _).take c = (t.listFields.1 ++ _).take c
    rw [List.take_append_of_le_length (by rw [List.length_take]; omega), List.take_append_of_le_length (by omega),
      List.take_take, Nat.min_self]

/-- Settles O16: the two decodes part only behind the count byte, which is the larger capacity. -/
theorem smallerCapacityReturnsThePrefix : Obligations.SmallerCapacityReturnsThePrefix := by
  intro op recCap c s big small e larger less smaller
  rw [decodeList_eq_listHead] at larger smaller
  obtain ⟨head, larger⟩ := andThen_eq_return larger
  rw [andThen_of_return head] at smaller
  generalize (listHead op s).1 = t at larger smaller
  obtain ⟨count, -⟩ := listCountIsClampedWithoutError big.n.toNat recCap t
  simp only [larger] at count
  rw [count] at larger less
  obtain ⟨small', returned, result⟩ := listBody_smaller less larger
  obtain ⟨rfl, rfl⟩ := Prod.mk.inj (smaller.symm.trans returned)
  exact ⟨rfl, result⟩

/-! #### The slots -/

theorem hunt_listRegs (k : Nat) : ∀ s, (hunt k s).1.listRegs = s.listRegs := by
  have sampled (s : State) : s.sampleAbort.2.listRegs = s.listRegs := by rw [s.sampleAbort_frame]; rfl
  induction k with
  | zero =>
    intro s
    unfold hunt
    split <;> exact sampled s
  | succ k ih =>
    intro s
    have read : s.sampleAbort.2.rxByte.2.listRegs = s.listRegs := (State.rxByte_listRegs _).trans (sampled s)
    unfold hunt
    dsimp only
    split
    · exact sampled s
    · split
      · exact read
      · exact (ih _).trans read

theorem findMarker_listRegs {s : State} (unmarked : s.marker = false) :
    (findMarker s).1.listRegs = { s.listRegs with m := 0 } := by
  rw [findMarker, if_neg (by simp [unmarked])]
  exact hunt_listRegs _ _

theorem echoCheck_listRegs (op : Byte) (s : State) : (echoCheck op s).1.listRegs = s.listRegs := by
  have read : s.rxByte.2.listRegs = s.listRegs := s.rxByte_listRegs
  unfold echoCheck
  dsimp only
  split
  · rw [padRx_listRegs, drain_eq_readBytes, readBytes_listRegs]
    exact read
  · split <;> exact read

theorem listHead_listRegs (op : Byte) {s : State} (unmarked : s.marker = false) :
    (listHead op s).1.listRegs = { s.listRegs with m := 0, truncated := false } := by
  have found : (findMarker { s with truncated := false }).1.listRegs
      = { s.listRegs with m := 0, truncated := false } := findMarker_listRegs (by exact unmarked)
  rw [listHead, if_neg (by simp [unmarked]), Ended.andThen]
  split
  · exact (echoCheck_listRegs op _).trans found
  · exact found

/-- However a list body ends, the slots hold some records, not more than the clamp and none too long, and behind them
what they held. -/
theorem ListRegs.listed_slots (r : ListRegs) (maxParams recCap : Nat) (c : Byte) (fields : List (List Byte)) :
    ∃ kept, (r.listed maxParams recCap c fields).slots = kept ++ r.slots.drop kept.length
      ∧ kept.length ≤ min c.toNat maxParams ∧ ∀ p ∈ kept, p.length ≤ recCap := by
  cases err : r.err with
  | some e => exact ⟨[], by rw [ListRegs.listed_of_latched err]; rfl, Nat.zero_le _, by simp⟩
  | none =>
    refine ⟨keptRecords recCap (fields.take (min c.toNat maxParams)), ?_, ?_, ?_⟩
    · rw [ListRegs.listed_of_unlatched err]
    · exact (List.takeWhile_prefix _).length_le.trans (List.length_take_le _ _)
    · exact fun p mem => length_le_of_mem_keptRecords mem

/-- However a list decode ends, its clamped count is within the capacity, and the slots hold some records, not more than
the clamped count and none too long, and behind them what they held (42_demux.md R169). -/
theorem decodeList_slots (op : Byte) (maxParams recCap : Nat) {s : State} (unmarked : s.marker = false) :
    let t := (decodeList op maxParams recCap s).1
    ∃ kept, t.slots = kept ++ s.slots.drop kept.length ∧ kept.length ≤ t.m ∧ t.m ≤ maxParams
      ∧ ∀ p ∈ kept, p.length ≤ recCap := by
  intro t
  have head := listHead_listRegs op unmarked
  have slots : (listHead op s).1.slots = s.slots := congrArg ListRegs.slots head
  have decoded : t = ((listHead op s).andThen (listBody maxParams recCap)).1 := rfl
  cases ended : (listHead op s).2 with
  | some e =>
    have stopped : t = (listHead op s).1 := by simp only [decoded, Ended.andThen, ended]
    have m : t.m = 0 := (congrArg State.m stopped).trans (congrArg ListRegs.m head)
    exact ⟨[], by rw [stopped, slots]; rfl, Nat.zero_le _, by omega, by simp⟩
  | none =>
    rw [andThen_of_return ended, listBody_eq_listFields] at decoded
    generalize (listHead op s).1 = u at decoded slots
    obtain ⟨kept, stored, within, short⟩ := u.listRegs.listed_slots maxParams recCap u.rxByte.1 u.listFields.1
    have m : t.m = min u.rxByte.1.toNat maxParams := by
      rw [decoded, u.listRegs.listed_counts]
      rfl
    refine ⟨kept, ?_, by rwa [m], by omega, short⟩
    rw [decoded, ← slots]
    exact stored

/-- Settles O17: beyond the records kept, the slots are the old ones. -/
theorem listDecodeStaysWithinItsSlots : Obligations.ListDecodeStaysWithinItsSlots := by
  intro op maxParams recCap s unmarked t
  obtain ⟨kept, slots, within, clamp, short⟩ := decodeList_slots op maxParams recCap unmarked
  have beyond (i : Nat) (h : kept.length ≤ i) : t.slots[i]? = s.slots[i]? := by
    rw [slots, List.getElem?_append_right h, List.getElem?_drop, Nat.add_sub_cancel' h]
  refine ⟨clamp, fun i h => beyond i (within.trans h), fun i p found => ?_⟩
  by_cases h : kept.length ≤ i
  · exact .inl (beyond i h ▸ found)
  · rw [slots, List.getElem?_append_left (by omega)] at found
    exact .inr (short p (List.mem_of_getElem? found))

end Sys2Proof.Machine

/-! ### The argument check, operation by operation (43_command_engine.md R183) -/

namespace Sys2Proof.Machine

/-- The latched bound is the request's, or the default one (43_command_engine.md R180), whatever the operands are. -/
theorem latchArgs_timeout (c : Cfg) (sel : Selector) (a : OpArgs) (t : Option Bound) :
    (latchArgs c ⟨sel, a, t⟩).timeout = t.getD (.micros c.defaultReadyTimeout) := by
  cases a <;> rfl

/-- Under a finite bound the check is that of the operands alone. -/
theorem argsOk_of_micros (c : Cfg) (b : Byte) (sel : Selector) (a : OpArgs) (us : Nat) :
    argsOk c b ⟨sel, a, some (.micros us)⟩ = operandsOk c b a := by
  rw [argsOk, latchArgs_timeout]
  exact Bool.and_true _

theorem argsOk_of_unbounded (c : Cfg) (b : Byte) (sel : Selector) (a : OpArgs) :
    argsOk c b ⟨sel, a, some .unbounded⟩ = false := by
  rw [argsOk, latchArgs_timeout]
  exact Bool.and_false _

theorem argsOk_of_default (c : Cfg) (b : Byte) (sel : Selector) (a : OpArgs) :
    argsOk c b ⟨sel, a, none⟩ = argsOk c b ⟨sel, a, some (.micros c.defaultReadyTimeout)⟩ := by
  simp only [argsOk, latchArgs_timeout, Option.getD_none, Option.getD_some]

/-- The fields of a configuration are at most a byte wide (00_scope.md R7). -/
theorem fields_fit_of_inRange {c : Cfg} (config : Cfg.inRange c = true) : c.ssidMax ≤ 255 ∧ c.passMax ≤ 255 := by
  simp only [Cfg.inRange, Bool.and_eq_true, decide_eq_true_eq] at config
  omega

/-- In a configuration in range the byte test of CONNECT's lengths follows from the field test. -/
theorem operandsOk_connect {c : Cfg} (config : Cfg.inRange c = true) (ssid pass : List Byte) :
    operandsOk c 0x11 (.credentials ssid pass) = decide (ssid.length ≤ c.ssidMax ∧ pass.length ≤ c.passMax) := by
  obtain ⟨ssidField, passField⟩ := fields_fit_of_inRange config
  rw [Bool.eq_iff_iff]
  simp only [operandsOk, if_true, fitsByte, Bool.and_eq_true, decide_eq_true_eq]
  omega

/-- The operations with no row of their own in R183 take no arguments. -/
theorem operandsOk_plain {b : Byte} (plain : b ∈ [(0x20 : Byte), 0x22, 0x36, 0x30]) (c : Cfg) (a : OpArgs) :
    operandsOk c b a = decide (a = .none) := by
  have unlisted : b ≠ 0x11 ∧ b ≠ 0x37 ∧ b ≠ 0x27 := by
    revert b
    decide
  obtain ⟨connect, version, scan⟩ := unlisted
  unfold operandsOk
  rw [if_neg connect, if_neg version, if_neg scan]
  cases a <;> rfl

/-- Settles O40: with the bound split off, each row is the operands' test of its operation. -/
theorem argumentCheckIsTheLimitsOfEachOperation : Obligations.ArgumentCheckIsTheLimitsOfEachOperation := by
  intro c us config
  refine ⟨fun ssid pass => ?connect, fun n => ?version, fun n => ?scan, fun b a plain => ?others,
    fun b a => argsOk_of_unbounded c b _ a, fun b a => argsOk_of_default c b _ a, fun n t => ?clamp⟩
  case connect => exact (argsOk_of_micros ..).trans (operandsOk_connect config ssid pass)
  case version => exact argsOk_of_micros ..
  case scan => exact argsOk_of_micros ..
  case others => exact (argsOk_of_micros ..).trans (operandsOk_plain plain c a)
  case clamp => rfl

end Sys2Proof.Machine

/-! ### The first error of a call (60_exceptions.md R226) -/

namespace Sys2Proof.Machine

theorem State.latch_latch (s : State) (d e : ErrorKind) : (s.latch d).latch e = s.latch d :=
  (s.latch d).latch_some e (s.latch_err d)

/-- A raise writes the latch as a latch does. -/
theorem State.takeError_err (s : State) (e : ErrorKind) : (s.takeError e).err = (s.latch e).err := by
  rw [State.takeError, State.enter_err]

/-- The terminator check with an error latched: whatever byte stands there, that error is raised, and the latch still
holds it (41_frame_codec.md R143). -/
theorem finishFrame_latched {s : State} {d : ErrorKind} (latched : s.err = some d) :
    (finishFrame s).2 = some d ∧ (finishFrame s).1.err = some d := by
  have ended : finishFrame s
      = ((padRx s.rxByte.2).withListRegs s.listRegs, s.err.or (terminatorError s.rxByte.1)) :=
    finishFrame_withListRegs s s.listRegs
  rw [ended]
  exact ⟨by rw [latched, Option.some_or], latched⟩

/-- Settles O45: a latch that is set stays as it is, a raise writes it by a latch, and the terminator check looks at it
before it looks at the byte. -/
theorem firstErrorIsKept : Obligations.FirstErrorIsKept := by
  intro s d e
  refine ⟨s.latch_latch d e, ?firstRaise, ?laterRaise, ?firstLatch, ?leaves, finishFrame_latched⟩
  case firstRaise => exact (s.takeError_err d).trans (s.latch_err d)
  case laterRaise => rw [State.takeError_err, State.latch_latch]
  case firstLatch =>
    intro unlatched
    rw [s.latch_none e unlatched]
  case leaves => exact fun f => rfl

end Sys2Proof.Machine

/-! ### The configuration is given at block reset and never written (70_reset_and_hazards.md R250, R261) -/

namespace Sys2Proof.Machine

@[simp] theorem State.takeError_cfg (s : State) (e : ErrorKind) : (s.takeError e).cfg = s.cfg := by
  rw [s.takeError_frame]

@[simp] theorem State.takeBus_cfg (s : State) : s.takeBus.2.cfg = s.cfg := by rw [s.takeBus_frame]

@[simp] theorem settle_cfg (next : Fsm) (r : Ended) : (settle next r).cfg = r.1.cfg := by
  unfold settle
  split
  · rfl
  · exact State.takeError_cfg _ _

@[simp] theorem accept_cfg (r : Request) (s : State) : (accept r s).cfg = s.cfg := by
  unfold accept
  dsimp only
  split
  · rfl
  · split
    · rfl
    · exact State.takeError_cfg _ _

@[simp] theorem waitReady_cfg (s : State) : (waitReady s).1.cfg = s.cfg := (waitReady_spec s).1.emits.keeps.cfg

@[simp] theorem actAcquire_cfg (s : State) : (actAcquire s).cfg = s.cfg := by
  unfold actAcquire
  split <;> simp

@[simp] theorem actSend_cfg (s : State) : (actSend s).cfg = s.cfg := by
  unfold actSend
  split
  · rename_i f _
    exact (sendBytes_spec f { s with tx := f, txIdx := 0 }).1.emits.keeps.cfg
  · exact s.takeError_cfg _

@[simp] theorem State.returnFromError_cfg (s : State) : s.returnFromError.cfg = s.cfg := by
  unfold State.returnFromError
  split <;> rfl

/-- No engine state's rule writes the configuration. -/
@[simp] theorem action_cfg (s : State) : (action s).cfg = s.cfg := by
  unfold action
  cases s.fsm with
  | idle => rfl
  | acquireBus => exact actAcquire_cfg s
  | awaitReadyTx => exact (settle_cfg _ _).trans (waitReady_cfg s)
  | selectTx => rfl
  | sendFrame => exact actSend_cfg s
  | deselectTx => rfl
  | awaitReadyRx => exact (settle_cfg _ _).trans (waitReady_cfg s)
  | selectRx => rfl
  | receiveFrame => exact (settle_cfg _ _).trans (decodeCall_keeps s).cfg
  | deselectRx => rfl
  | releaseBus => rfl
  | done => rfl
  | failed => exact s.returnFromError_cfg
  | resetSeq => simp [actResetSeq, resetSequence_eq]

@[simp] theorem resume_cfg (s : State) : (resume s).cfg = s.cfg :=
  run_keeps (P := fun t => t.cfg = s.cfg) (fun t _ kept => (action_cfg t).trans kept) callLength s rfl

@[simp] theorem call_cfg (r : Request) (s : State) : (call r s).cfg = s.cfg :=
  (resume_cfg (accept r s)).trans (accept_cfg r s)

/-- Taking inputs in, going on with a call and running a whole call all leave the configuration. -/
theorem Reaches.cfg_eq {s t : State} (h : Reaches s t) : t.cfg = s.cfg := by
  cases h with
  | waits env requests => rfl
  | resumes env requests => exact resume_cfg (s.withInputs env requests)
  | calls r env requests => exact call_cfg r (s.withInputs env requests)

/-- What an instruction answers is one of the things that a step can do. -/
theorem reaches_of_exec {i : Instr} {s t : State} (h : exec i s = .next t) : Reaches s t := by
  obtain ⟨u, executed, reached⟩ := exec_reaches i s
  cases executed.symm.trans h
  exact reached

/-- Settles O30: a step and an instruction reach only what inputs, a resumed call and a whole call lead to, and no rule
of the engine writes the configuration. -/
theorem noOperationChangesTheConfiguration : Obligations.NoOperationChangesTheConfiguration :=
  ⟨fun _ _ stepped => (step_reaches stepped).cfg_eq, fun _ _ _ executed => (reaches_of_exec executed).cfg_eq⟩

/-- Settles O26: block reset is one assignment of every register, and these are the values it assigns. -/
theorem blockResetLeavesTheGivenValues : Obligations.BlockResetLeavesTheGivenValues :=
  fun _ => ⟨rfl, rfl, rfl, rfl, rfl, rfl, rfl, rfl, rfl⟩

end Sys2Proof.Machine

/-! ### The accepted operation and its arguments are written by the accept alone (10_state.md R31) -/

namespace Sys2Proof.Machine

@[simp] theorem settle_op (next : Fsm) (r : Ended) : (settle next r).op = r.1.op := by
  unfold settle
  split
  · rfl
  · rw [State.takeError_frame]

@[simp] theorem settle_args (next : Fsm) (r : Ended) : (settle next r).args = r.1.args := by
  unfold settle
  split
  · rfl
  · rw [State.takeError_frame]

theorem actAcquire_call (s : State) : (actAcquire s).op = s.op ∧ (actAcquire s).args = s.args := by
  unfold actAcquire
  rw [s.takeBus_frame]
  split <;> exact ⟨rfl, rfl⟩

theorem actSend_call (s : State) : (actSend s).op = s.op ∧ (actSend s).args = s.args := by
  unfold actSend
  split
  · rename_i f _
    have kept := (sendBytes_spec f { s with tx := f, txIdx := 0 }).1.emits.keeps
    exact ⟨kept.op, kept.args⟩
  · rw [State.takeError_frame]
    exact ⟨rfl, rfl⟩

theorem State.returnFromError_call (s : State) : s.returnFromError.op = s.op ∧ s.returnFromError.args = s.args := by
  unfold State.returnFromError
  split <;> exact ⟨rfl, rfl⟩

/-- No engine state's rule writes the operation or its arguments. -/
theorem action_call (s : State) : (action s).op = s.op ∧ (action s).args = s.args := by
  have waits := (waitReady_spec s).1.emits.keeps
  have decodes := decodeCall_keeps s
  unfold action
  cases s.fsm with
  | acquireBus => exact actAcquire_call s
  | awaitReadyTx | awaitReadyRx => exact ⟨(settle_op _ _).trans waits.op, (settle_args _ _).trans waits.args⟩
  | sendFrame => exact actSend_call s
  | receiveFrame => exact ⟨(settle_op _ _).trans decodes.op, (settle_args _ _).trans decodes.args⟩
  | failed => exact s.returnFromError_call
  | resetSeq => simp [actResetSeq, resetSequence_eq]
  | idle | selectTx | deselectTx | selectRx | deselectRx | releaseBus | done => exact ⟨rfl, rfl⟩

theorem resume_call (s : State) : (resume s).op = s.op ∧ (resume s).args = s.args :=
  run_keeps (P := fun t => t.op = s.op ∧ t.args = s.args)
    (fun t _ ⟨op, args⟩ => ⟨(action_call t).1.trans op, (action_call t).2.trans args⟩) callLength s ⟨rfl, rfl⟩

/-- The state with a request latched: `REQ`, the operation and its arguments, and the clears (43_command_engine.md
R180). -/
def State.latched (s : State) (r : Request) : State :=
  { s.emit (.req r) with
    op := r.sel, args := latchArgs s.cfg r, err := none, truncated := false, m := 0,
    slots := List.replicate (slotCount s.cfg r.sel (latchArgs s.cfg r)) [] }

/-- An accept is the latching of the request, and then the choice of where the call begins. -/
theorem accept_eq (r : Request) (s : State) : accept r s =
    match r.sel with
    | .resetSeq => (s.latched r).enter .resetSeq
    | .cmd b =>
      if known b && argsOk s.cfg b r then (s.latched r).enter .acquireBus
      else (s.latched r).takeError .argumentOutOfRange := rfl

theorem accept_call (r : Request) (s : State) :
    (accept r s).op = r.sel ∧ (accept r s).args = latchArgs s.cfg r := by
  rw [accept_eq]
  split
  · exact ⟨rfl, rfl⟩
  · split
    · exact ⟨rfl, rfl⟩
    · rw [State.takeError_frame]
      exact ⟨rfl, rfl⟩

/-- Settles O37: the accept latches them, and no rule of the engine writes them. -/
theorem acceptedArgumentsAreHeldThroughTheCall : Obligations.AcceptedArgumentsAreHeldThroughTheCall := by
  refine ⟨fun r s _ => ?_, resume_call⟩
  have op : (call r s).op = r.sel := (resume_call _).1.trans (accept_call r s).1
  have args : (call r s).args = latchArgs s.cfg r := (resume_call _).2.trans (accept_call r s).2
  refine ⟨op, args, fun unbounded => ?_⟩
  obtain ⟨sel, a, t⟩ := r
  obtain rfl : t = none := unbounded
  rw [args, latchArgs_timeout]
  rfl

end Sys2Proof.Machine

/-! ### Soundness, rule by rule (10_state.md R26-R29, R32-R34, R41; 60_exceptions.md R228) -/

namespace Sys2Proof.Machine

open Sys2Proof.Safety

/-- The part of soundness that does not look at the engine state: the registers are within their bounds. -/
structure InBounds (s : State) : Prop where
  config : Cfg.inRange s.cfg = true
  txAligned : s.tx.length % 4 = 0 ∧ s.tx.length ≤ 1796 ∧ s.txIdx ≤ s.tx.length
  probe : s.probe ≤ s.cfg.probeLimit
  count : s.m ≤ min 255 s.cfg.listCap
  slots : ∀ p ∈ s.slots, p.length ≤ 255

/-- The part of soundness that the engine state `f` asks for. -/
structure Fits (s : State) (f : Fsm) : Prop where
  bus : s.busHeld = f.holdsBus
  chipSelect : s.cs = f.csLevel
  accepted : inWireCall f = true → acceptedCall s
  errNone : errClear f = true → s.err = none
  errSome : f = .failed → s.err ≠ none
  marker : s.marker = true → f = .receiveFrame

theorem sound_iff {s : State} : Sound s ↔ InBounds s ∧ Fits s s.fsm where
  mp h := ⟨⟨h.config, h.txAligned, h.probeBound, h.countBound, h.slotBound⟩,
    ⟨h.bus, h.chipSelect, h.accepted, h.errNone, h.errSome, h.markerPlace⟩⟩
  mpr h := ⟨h.1.config, h.2.bus, h.2.chipSelect, h.2.accepted, h.2.errNone, h.2.errSome, h.2.marker, h.1.txAligned,
    h.1.probe, h.1.count, h.1.slots⟩

theorem inBounds_and_fits {s : State} {f : Fsm} (sound : Sound s) (fsm : s.fsm = f) : InBounds s ∧ Fits s f :=
  fsm ▸ sound_iff.1 sound

/-- Entering an engine state that the registers fit. -/
theorem InBounds.sound_enter {s : State} {f : Fsm} (bounds : InBounds s) (fits : Fits s f) : Sound (s.enter f) :=
  sound_iff.2 ⟨⟨bounds.config, bounds.txAligned, bounds.probe, bounds.count, bounds.slots⟩,
    ⟨fits.bus, fits.chipSelect, fits.accepted, fits.errNone, fits.errSome, fits.marker⟩⟩

/-- What the engine state `g` asks for beyond `f` is nothing, where neither is Failed. -/
structure NoMoreThan (g f : Fsm) : Prop where
  bus : g.holdsBus = f.holdsBus
  chipSelect : g.csLevel = f.csLevel
  accepted : inWireCall g = true → inWireCall f = true
  errNone : errClear g = true → errClear f = true
  errSome : g ≠ .failed
  marker : f ≠ .receiveFrame

theorem Fits.of_noMoreThan {s : State} {f g : Fsm} (fits : Fits s f) (less : NoMoreThan g f) : Fits s g where
  bus := fits.bus.trans less.bus.symm
  chipSelect := fits.chipSelect.trans less.chipSelect.symm
  accepted := fun h => fits.accepted (less.accepted h)
  errNone := fun h => fits.errNone (less.errNone h)
  errSome := fun h => absurd h less.errSome
  marker := fun h => absurd (fits.marker h) less.marker

/-- A marker left set stands for ReceiveFrame only. -/
theorem Fits.marker_eq_false {s : State} {f : Fsm} (fits : Fits s f) (other : f ≠ .receiveFrame) : s.marker = false :=
  Bool.eq_false_of_not_eq_true fun marked => other (fits.marker marked)

section keeps
variable {s t : State} {f : Fsm}

theorem acceptedCall_congr (op : t.op = s.op) (args : t.args = s.args) (h : acceptedCall s) : acceptedCall t := by
  unfold acceptedCall at *
  rwa [op, args]

/-- A ready wait keeps what soundness looks at. -/
theorem WaitFrame.inBounds (h : WaitFrame s t) (bounds : InBounds s) : InBounds t := by
  have cfg := h.emits.keeps.cfg
  exact ⟨cfg ▸ bounds.config, by rw [h.emits.keeps.tx, h.txIdx]; exact bounds.txAligned,
    by rw [h.probe, cfg]; exact bounds.probe, by rw [h.m, cfg]; exact bounds.count, h.slots ▸ bounds.slots⟩

theorem WaitFrame.fits (h : WaitFrame s t) (fits : Fits s f) : Fits t f where
  bus := h.emits.keeps.busHeld.trans fits.bus
  chipSelect := h.emits.keeps.cs.trans fits.chipSelect
  accepted := fun w => acceptedCall_congr h.emits.keeps.op h.emits.keeps.args (fits.accepted w)
  errNone := fun c => h.err.trans (fits.errNone c)
  errSome := fun e => h.err ▸ fits.errSome e
  marker := fun m => fits.marker (h.marker ▸ m)

/-- A latch touches no bound. -/
theorem InBounds.latch (bounds : InBounds s) (e : ErrorKind) : InBounds (s.latch e) := by
  rw [s.latch_frame]
  exact ⟨bounds.config, bounds.txAligned, bounds.probe, bounds.count, bounds.slots⟩

/-- Where the exit path of an error begins, a latched error is no objection. -/
theorem Fits.latch {g : Fsm} (fits : Fits s f) (less : NoMoreThan g f) (exits : errClear g = false) (e : ErrorKind) :
    Fits (s.latch e) g := by
  have moved := fits.of_noMoreThan less
  rw [s.latch_frame]
  exact ⟨moved.bus, moved.chipSelect, moved.accepted, fun clear => absurd clear (by simp [exits]),
    fun failed => absurd failed less.errSome, moved.marker⟩

end keeps

/-- How a ready wait ends in a sound state: the next state is entered, or the bus is to be released. -/
theorem settle_waitReady_sound {s : State} {f g : Fsm} (sound : Sound s) (fsm : s.fsm = f)
    (exit : errorExit f = .releaseBus) (next : NoMoreThan g f) (release : NoMoreThan .releaseBus f) :
    Sound (settle g (waitReady s)) := by
  obtain ⟨bounds, fits⟩ := inBounds_and_fits sound fsm
  have frame := (waitReady_spec s).1
  unfold settle
  split
  · exact (frame.inBounds bounds).sound_enter ((frame.fits fits).of_noMoreThan next)
  · rename_i e _
    rw [State.takeError, frame.emits.keeps.fsm, fsm, exit]
    exact ((frame.inBounds bounds).latch e).sound_enter ((frame.fits fits).latch release rfl e)

theorem actAcquire_sound {s : State} (sound : Sound s) (fsm : s.fsm = .acquireBus) : Sound (actAcquire s) := by
  obtain ⟨bounds, fits⟩ := inBounds_and_fits sound fsm
  unfold actAcquire
  rw [s.takeBus_frame]
  split
  · exact sound_iff.2 ⟨⟨bounds.config, bounds.txAligned, bounds.probe, bounds.count, bounds.slots⟩, sound.bus,
      sound.chipSelect, sound.accepted, sound.errNone, sound.errSome, sound.markerPlace⟩
  · refine InBounds.sound_enter ⟨bounds.config, bounds.txAligned, bounds.probe, bounds.count, bounds.slots⟩ ?_
    exact ⟨rfl, fits.chipSelect, fun _ => fits.accepted rfl, fun _ => fits.errNone rfl, nofun,
      fun marked => nomatch fits.marker marked⟩

/-- Chip-select driven to the level of the state entered, with whatever the receive count is set to. -/
theorem sound_enter_selected {s : State} {f g : Fsm} {l : List Event} {k : Nat} (sound : Sound s) (fsm : s.fsm = f)
    (bus : g.holdsBus = f.holdsBus) (accepted : inWireCall g = true → inWireCall f = true)
    (errNone : errClear g = true → errClear f = true) (errSome : g ≠ .failed) (marker : f ≠ .receiveFrame) :
    Sound (({ s with cs := g.csLevel, trace := l, rxCount := k } : State).enter g) := by
  obtain ⟨bounds, fits⟩ := inBounds_and_fits sound fsm
  refine InBounds.sound_enter ⟨bounds.config, bounds.txAligned, bounds.probe, bounds.count, bounds.slots⟩ ?_
  exact ⟨fits.bus.trans bus.symm, rfl, fun w => fits.accepted (accepted w), fun c => fits.errNone (errNone c),
    fun failed => absurd failed errSome, fun marked => absurd (fits.marker marked) marker⟩

/-- An accepted call has a frame to send. -/
theorem requestFrame_of_acceptedCall {s : State} (accepted : acceptedCall s) :
    ∃ b f, s.op = .cmd b ∧ encodeFrame b (params b s.args) = .ok f ∧ requestFrame s = .ok f := by
  obtain ⟨b, op, -, within, -, -⟩ := accepted
  have encoded := encodeFrame_of_encodable within b
  exact ⟨b, _, op, encoded, by rw [requestFrame, op]; exact encoded⟩

theorem actSend_sound {s : State} (sound : Sound s) (fsm : s.fsm = .sendFrame) : Sound (actSend s) := by
  obtain ⟨bounds, fits⟩ := inBounds_and_fits sound fsm
  obtain ⟨b, f, -, encoded, frame⟩ := requestFrame_of_acceptedCall (fits.accepted rfl)
  obtain ⟨aligned, short⟩ := encodeFrame_bounds encoded
  obtain ⟨sent, index, -⟩ := sendBytes_spec f { s with tx := f, txIdx := 0 }
  have keeps := sent.emits.keeps
  simp only [actSend, frame]
  generalize sendBytes f { s with tx := f, txIdx := 0 } = t at sent index keeps
  have tx : t.tx = f := keeps.tx
  have cfg : t.cfg = s.cfg := keeps.cfg
  refine InBounds.sound_enter ⟨cfg ▸ bounds.config, ?tx, ?probe, ?count, sent.slots ▸ bounds.slots⟩ ?fits
  case tx =>
    rw [tx, index]
    exact ⟨aligned, short, by simp⟩
  case probe => rw [sent.probe, cfg]; exact bounds.probe
  case count => rw [sent.m, cfg]; exact bounds.count
  case fits =>
    exact ⟨keeps.busHeld.trans fits.bus, keeps.cs.trans fits.chipSelect,
      fun _ => acceptedCall_congr keeps.op keeps.args (fits.accepted rfl), fun _ => sent.err.trans (fits.errNone rfl),
      nofun, fun marked => nomatch fits.marker (sent.marker ▸ marked)⟩

/-- What a decode may store is within the bound of the clamped count (10_state.md R34). -/
theorem capacity_decodeMode_le {c : Cfg} (config : Cfg.inRange c = true) (b : Byte) (a : Args) :
    (decodeMode c b a).capacity ≤ min 255 c.listCap := by
  simp only [Cfg.inRange, Bool.and_eq_true, decide_eq_true_eq] at config
  unfold decodeMode
  split_ifs <;> simp only [DecodeMode.capacity, scanCap] <;> omega

theorem actReceive_sound {s : State} (sound : Sound s) (fsm : s.fsm = .receiveFrame) : Sound (actReceive s) := by
  obtain ⟨bounds, fits⟩ := inBounds_and_fits sound fsm
  obtain ⟨b, op, -⟩ := fits.accepted rfl
  have frame := decodeCall_frame s b op
  have keeps := frame.emits.keeps
  have capacity := capacity_decodeMode_le bounds.config b s.args
  have decoded : InBounds { (decodeCall s).1 with marker := false } := by
    refine ⟨keeps.cfg ▸ bounds.config, ?tx, ?probe, ?count, frame.slots bounds.slots⟩
    case tx => simpa only [keeps.tx, frame.txIdx] using bounds.txAligned
    case probe => simpa only [keeps.cfg] using frame.probe.trans (max_le bounds.probe le_rfl)
    case count => simpa only [keeps.cfg] using frame.count.trans (max_le bounds.count capacity)
  have exit : Fits { (decodeCall s).1 with marker := false } .deselectRx :=
    ⟨keeps.busHeld.trans fits.bus, keeps.cs.trans fits.chipSelect,
      fun _ => acceptedCall_congr keeps.op keeps.args (fits.accepted rfl), nofun, nofun, nofun⟩
  unfold actReceive settle
  split
  · exact decoded.sound_enter exit
  · rename_i e _
    have stays : ({ (decodeCall s).1 with marker := false } : State).fsm = .receiveFrame := keeps.fsm.trans fsm
    rw [State.takeError, stays]
    refine (decoded.latch e).sound_enter ?_
    rw [State.latch_frame]
    exact ⟨exit.bus, exit.chipSelect, exit.accepted, nofun, nofun, exit.marker⟩

theorem actRelease_sound {s : State} (sound : Sound s) (fsm : s.fsm = .releaseBus) : Sound (actRelease s) := by
  obtain ⟨bounds, fits⟩ := inBounds_and_fits sound fsm
  refine InBounds.sound_enter ⟨bounds.config, bounds.txAligned, bounds.probe, bounds.count, bounds.slots⟩ ?_
  cases err : s.err with
  | none =>
    exact ⟨rfl, fits.chipSelect, fun _ => fits.accepted rfl, fun _ => err, nofun,
      fun marked => nomatch fits.marker marked⟩
  | some e =>
    exact ⟨rfl, fits.chipSelect, nofun, nofun, fun _ => by simp [err], fun marked => nomatch fits.marker marked⟩

/-- Back in Idle, from a state without the bus and with chip-select high. -/
theorem sound_enter_idle {s : State} {l : List Event} (bounds : InBounds s) (bus : s.busHeld = false)
    (high : s.cs = .high) (unmarked : s.marker = false) : Sound (({ s with trace := l } : State).enter .idle) :=
  InBounds.sound_enter ⟨bounds.config, bounds.txAligned, bounds.probe, bounds.count, bounds.slots⟩
    ⟨bus, high, nofun, nofun, nofun, fun marked => by rw [unmarked] at marked; cases marked⟩

theorem State.returnFromError_sound {s : State} (sound : Sound s) (fsm : s.fsm = .failed) :
    Sound s.returnFromError := by
  obtain ⟨bounds, fits⟩ := inBounds_and_fits sound fsm
  have unmarked := fits.marker_eq_false nofun
  unfold State.returnFromError
  split
  · exact sound_enter_idle bounds fits.bus fits.chipSelect unmarked
  · exact sound_enter_idle (l := s.trace) bounds fits.bus fits.chipSelect unmarked

theorem actResetSeq_sound {s : State} (sound : Sound s) (fsm : s.fsm = .resetSeq) : Sound (actResetSeq s) := by
  obtain ⟨bounds, fits⟩ := inBounds_and_fits sound fsm
  rw [actResetSeq, resetSequence_eq]
  exact sound_enter_idle ⟨bounds.config, bounds.txAligned, bounds.probe, bounds.count, bounds.slots⟩ fits.bus rfl
    (fits.marker_eq_false nofun)

theorem actDone_sound {s : State} (sound : Sound s) (fsm : s.fsm = .done) : Sound (actDone s) := by
  obtain ⟨bounds, fits⟩ := inBounds_and_fits sound fsm
  exact sound_enter_idle bounds fits.bus fits.chipSelect (fits.marker_eq_false nofun)

/-- Every engine state's rule keeps a sound state sound. -/
theorem action_sound {s : State} (sound : Sound s) : Sound (action s) := by
  unfold action
  cases fsm : s.fsm with
  | idle => exact sound
  | acquireBus => exact actAcquire_sound sound fsm
  | awaitReadyTx =>
    exact settle_waitReady_sound sound fsm rfl ⟨rfl, rfl, id, id, nofun, nofun⟩ ⟨rfl, rfl, id, nofun, nofun, nofun⟩
  | selectTx => exact sound_enter_selected (s := s) sound fsm rfl id id nofun nofun
  | sendFrame => exact actSend_sound sound fsm
  | deselectTx =>
    rw [actDeselectTx, deselect_eq]
    exact sound_enter_selected sound fsm rfl id id nofun nofun
  | awaitReadyRx =>
    exact settle_waitReady_sound sound fsm rfl ⟨rfl, rfl, id, id, nofun, nofun⟩ ⟨rfl, rfl, id, nofun, nofun, nofun⟩
  | selectRx => exact sound_enter_selected (s := s) sound fsm rfl id id nofun nofun
  | receiveFrame => exact actReceive_sound sound fsm
  | deselectRx =>
    rw [actDeselectRx, deselect_eq]
    exact sound_enter_selected sound fsm rfl id nofun nofun nofun
  | releaseBus => exact actRelease_sound sound fsm
  | done => exact actDone_sound sound fsm
  | failed => exact s.returnFromError_sound sound fsm
  | resetSeq => exact actResetSeq_sound sound fsm

theorem resume_sound {s : State} (sound : Sound s) : Sound (resume s) :=
  run_keeps (P := Sound) (fun _ _ => action_sound) callLength s sound

/-- Arguments that pass the check are within a byte (10_state.md R31). -/
theorem latchArgs_le_of_argsOk {c : Cfg} {b : Byte} {r : Request} (ok : argsOk c b r = true) :
    (latchArgs c r).cap ≤ 255 ∧ (latchArgs c r).maxRecords ≤ 255 := by
  obtain ⟨sel, a, t⟩ := r
  rw [argsOk, Bool.and_eq_true] at ok
  obtain ⟨operands, -⟩ := ok
  obtain ⟨rfl, n, rfl⟩ | ⟨rfl, n, rfl⟩ | ⟨rfl, ssid, pass, rfl⟩ | ⟨-, -, -, rfl⟩ := shape_of_operandsOk operands
  · exact ⟨of_decide_eq_true operands, Nat.zero_le _⟩
  · exact ⟨Nat.zero_le _, of_decide_eq_true operands⟩
  · exact ⟨Nat.zero_le _, Nat.zero_le _⟩
  · exact ⟨Nat.zero_le _, Nat.zero_le _⟩

/-- A wire request that passes the accept's check is an accepted call. -/
theorem acceptedCall_of_pass {s : State} {b : Byte} {r : Request} {c : Cfg} (op : s.op = .cmd b)
    (args : s.args = latchArgs c r) (pass : (known b && argsOk c b r) = true) : acceptedCall s := by
  obtain ⟨listed, ok⟩ := Bool.and_eq_true_iff.1 pass
  have fits := latchArgs_le_of_argsOk ok
  exact ⟨b, op, listed, args ▸ encodable_params_of_argsOk ok, args ▸ fits.1, args ▸ fits.2⟩

theorem State.latched_inBounds {s : State} (bounds : InBounds s) (r : Request) : InBounds (s.latched r) := by
  refine ⟨bounds.config, bounds.txAligned, bounds.probe, Nat.zero_le _, fun p mem => ?_⟩
  simp [List.eq_of_mem_replicate mem]

/-- The accept of any request keeps a sound Idle state sound. -/
theorem accept_sound {r : Request} {s : State} (sound : Sound s) (idle : s.fsm = .idle) : Sound (accept r s) := by
  obtain ⟨bounds, fits⟩ := inBounds_and_fits sound idle
  have latched := s.latched_inBounds bounds r
  have unmarked (f : Fsm) (marked : s.marker = true) : f = .receiveFrame := nomatch fits.marker marked
  rw [accept_eq]
  cases wire : r.sel with
  | resetSeq => exact latched.sound_enter ⟨fits.bus, fits.chipSelect, nofun, fun _ => rfl, nofun, unmarked _⟩
  | cmd b =>
    dsimp only
    split
    · rename_i pass
      exact latched.sound_enter ⟨fits.bus, fits.chipSelect, fun _ => acceptedCall_of_pass wire rfl pass, fun _ => rfl,
        nofun, unmarked _⟩
    · have exit : errorExit (s.latched r).fsm = .failed := congrArg errorExit idle
      rw [State.takeError, exit]
      refine (latched.latch _).sound_enter ?_
      exact ⟨fits.bus, fits.chipSelect, nofun, nofun, fun _ => nofun, unmarked _⟩

theorem call_sound {r : Request} {s : State} (sound : Sound s) (idle : s.fsm = .idle) : Sound (call r s) :=
  resume_sound (accept_sound sound idle)

end Sys2Proof.Machine

/-! ### Soundness is kept by every instruction and by every step (10_state.md section 3) -/

namespace Sys2Proof.Machine

open Sys2Proof.Safety

/-- Soundness does not look at the inputs. -/
theorem withInputs_sound {s : State} (sound : Sound s) (env : Env) (requests : List Request) :
    Sound (s.withInputs env requests) := by
  obtain ⟨bounds, fits⟩ := sound_iff.1 sound
  exact sound_iff.2 ⟨⟨bounds.config, bounds.txAligned, bounds.probe, bounds.count, bounds.slots⟩,
    ⟨fits.bus, fits.chipSelect, fits.accepted, fits.errNone, fits.errSome, fits.marker⟩⟩

theorem present_sound {s : State} (sound : Sound s) (r : Request) : Sound (present r s) := by
  unfold present
  split
  · rename_i idle
    exact call_sound sound idle
  · exact withInputs_sound sound s.env _

theorem echoArrives_sound {s : State} (sound : Sound s) (b : Byte) : Sound (echoArrives b s) := by
  unfold echoArrives
  split
  · exact resume_sound (withInputs_sound sound _ s.requests)
  · exact sound

theorem abortRises_sound {s : State} (sound : Sound s) : Sound (abortRises s) := by
  unfold abortRises
  split
  · exact resume_sound (withInputs_sound sound _ s.requests)
  · exact sound

/-- An instruction is a request presented, an echo byte that arrives, or ABORT rising. -/
theorem exec_cases (i : Instr) (s : State) :
    (∃ r, exec i s = .next (present r s)) ∨ (∃ b, exec i s = .next (echoArrives b s))
      ∨ exec i s = .next (abortRises s) := by
  cases i with
  | getfwversion | getconnstatus | getmacaddr | startscan | scannetworks | connect | disconnect | resetseq =>
    exact .inl ⟨_, rfl⟩
  | getfwversionReply | getconnstatusReply | getmacaddrReply | startscanReply | scannetworksReply | connectReply
  | disconnectReply | errCmdReply =>
    exact .inr (.inl ⟨_, rfl⟩)
  | abort => exact .inr (.inr rfl)

theorem exec_sound {i : Instr} {s t : State} (sound : Sound s) (executed : exec i s = .next t) : Sound t := by
  obtain ⟨r, answer⟩ | ⟨b, answer⟩ | answer := exec_cases i s
  · cases answer.symm.trans executed
    exact present_sound sound r
  · cases answer.symm.trans executed
    exact echoArrives_sound sound b
  · cases answer.symm.trans executed
    exact abortRises_sound sound

/-- A request is taken in Idle only (43_command_engine.md R180). -/
theorem idle_of_fetch_request {s t : State} {r : Request} (fetched : fetch s = some (.request r, t)) :
    s.fsm = .idle := by
  unfold fetch at fetched
  split_ifs at fetched with idle
  · exact idle
  · cases fetched
  · cases fetched

theorem unlisted_sound {s t : State} {c : Code} (sound : Sound t) (fetched : fetch s = some (c, t)) :
    Sound (unlisted c t) := by
  cases c with
  | request r =>
    have idle := idle_of_fetch_request fetched
    obtain ⟨env, requests, rfl⟩ := fetch_withInputs fetched
    exact call_sound sound idle
  | echo b => exact echoArrives_sound sound b
  | abort _ => exact sound

theorem step_sound {s t : State} (sound : Sound s) (stepped : step s = .next t) : Sound t := by
  unfold step at stepped
  rw [if_pos sound.config] at stepped
  split at stepped
  · cases stepped
    exact resume_sound sound
  · rename_i c u fetched
    have taken : Sound u := by
      obtain ⟨env, requests, rfl⟩ := fetch_withInputs fetched
      exact withInputs_sound sound env requests
    split at stepped
    · exact exec_sound taken stepped
    · cases stepped
      exact unlisted_sound taken fetched

/-- Settles O28: the rule of each engine state keeps what soundness asks for, and a step is inputs taken in and then an
accept and such rules. -/
theorem everyStepKeepsSoundness : Obligations.EveryStepKeepsSoundness :=
  ⟨fun _ _ => step_sound, fun _ _ => accept_sound, fun _ sound _ => action_sound sound⟩

/-- Settles O29: whatever its operands are, an instruction is a call in Idle, a run of the call in flight, or a change of
the inputs. -/
theorem everyInstructionKeepsSoundness : Obligations.EveryInstructionKeepsSoundness := fun _ _ _ => exec_sound

/-- After block reset the engine is in Idle with the bus free, chip-select high and every register empty. -/
theorem blockReset_sound {c : Cfg} (config : Cfg.inRange c = true) : Sound (State.blockReset c) :=
  sound_iff.2 ⟨⟨config, ⟨rfl, Nat.zero_le _, Nat.le_refl _⟩, Nat.zero_le _, Nat.zero_le _, nofun⟩,
    ⟨rfl, rfl, nofun, nofun, nofun, nofun⟩⟩

/-- Settles O27. -/
theorem resetStateIsSound : Obligations.ResetStateIsSound :=
  ⟨blockReset_sound (by decide), fun _ => blockReset_sound⟩

end Sys2Proof.Machine

/-! ### What a step takes in, and what it refuses (log 1, log 2, log 6) -/

namespace Sys2Proof

/-- What the decoder reads from a request is that request's instruction (30_encoding.md R96). -/
theorem encode_of_decodeRequest {r : Request} {i : Instr} (row : decodeRequest r = .ok i) (errCmd : Byte) :
    encode errCmd i = .request r ∨ r.sel = .resetSeq := by
  obtain ⟨sel, a, t⟩ := r
  cases sel with
  | resetSeq => exact .inr rfl
  | cmd b =>
    refine .inl ?_
    simp only [decodeRequest] at row
    split_ifs at row
    all_goals subst b
    all_goals cases a <;> cases row
    all_goals rfl

/-- Settles O3, by the three kinds of code. -/
theorem eachCodeHasOneMeaning : Obligations.EachCodeHasOneMeaning := by
  intro errCmd c i row
  cases c with
  | request r =>
    obtain own | reset := encode_of_decodeRequest row errCmd
    · exact .inl own.symm
    · obtain ⟨sel, a, t⟩ := r
      obtain rfl : sel = .resetSeq := reset
      exact .inr ⟨a, t, rfl⟩
  | echo b => exact .inl (encode_of_decodeEcho row).symm
  | abort v =>
    cases v with
    | low => cases row
    | high =>
      cases row
      exact .inl rfl

end Sys2Proof

namespace Sys2Proof.Machine

/-- A step that fetches what decodes to an instruction runs it. -/
theorem step_of_fetch {s t : State} {c : Code} {i : Instr} (config : Cfg.inRange s.cfg = true)
    (fetched : fetch s = some (c, t)) (row : decode s.cfg.errCmd c = .ok i) : step s = exec i t := by
  simp [step, config, fetched, row]

theorem fetch_request {s : State} {r : Request} {rest : List Request} (idle : s.fsm = .idle)
    (queued : s.requests = r :: rest) : fetch s = some (.request r, { s with requests := rest }) := by
  simp [fetch, idle, queued]

/-- In ReceiveFrame past the start marker the next byte is taken in as the echo. -/
theorem fetch_echo {s : State} (atEcho : s.atEcho = true) : fetch s = some (.echo s.takeRx.1, s.takeRx.2) := by
  obtain ⟨receiving, -⟩ := State.atEcho_iff.1 atEcho
  simp [fetch, receiving, atEcho]

/-- The suspension points, one by one (43_command_engine.md R196). -/
theorem State.suspended_iff {s : State} : s.suspended = true ↔
    s.fsm = .awaitReadyTx ∨ s.fsm = .awaitReadyRx ∨ (s.fsm = .receiveFrame ∧ s.marker = false) := by
  unfold State.suspended
  cases s.fsm <;> simp

/-- A suspension point is neither Idle nor the place of an echo. -/
theorem not_atEcho_of_suspended {s : State} (suspended : s.suspended = true) : s.fsm ≠ .idle ∧ s.atEcho = false := by
  obtain tx | rx | ⟨receiving, unmarked⟩ := State.suspended_iff.1 suspended
  · simp [State.atEcho, tx]
  · simp [State.atEcho, rx]
  · simp [State.atEcho, receiving, unmarked]

/-- At a suspension point ABORT is taken in where it reads 1. -/
theorem fetch_suspended {s : State} (suspended : s.suspended = true) :
    fetch s = if s.takeAbort.1 = .high then some (.abort .high, s.takeAbort.2) else none := by
  obtain ⟨active, notEcho⟩ := not_atEcho_of_suspended suspended
  simp [fetch, active, notEcho, suspended]

/-- Settles O23: the three places where an input is taken in, and the rest. -/
theorem stepRunsTheDecodedInstruction : Obligations.StepRunsTheDecodedInstruction := by
  intro s config
  refine ⟨fun r rest i idle queued row => ?request, fun b rest i atEcho queued row => ?echo,
    fun rest suspended queued => ?abort, step_of_fetch_none config⟩
  case request => exact step_of_fetch config (fetch_request idle queued) row
  case echo =>
    have fetched := fetch_echo atEcho
    rw [s.takeRx_cons queued] at fetched
    exact step_of_fetch config fetched row
  case abort =>
    have fetched := fetch_suspended suspended
    rw [s.takeAbort_cons queued] at fetched
    exact step_of_fetch config fetched rfl

/-- In a configuration in range every step answers a next state: so does each instruction, and so does what no row
lists. -/
theorem step_answers {s : State} (config : Cfg.inRange s.cfg = true) : ∃ t, step s = .next t := by
  unfold step
  rw [if_pos config]
  split
  · exact ⟨_, rfl⟩
  · rename_i c u _
    split
    · rename_i i _
      obtain ⟨t, executed, -⟩ := exec_reaches i u
      exact ⟨t, executed⟩
    · exact ⟨_, rfl⟩

/-- Settles O25: the one test of a step, and of the construction, is that of the configuration's ranges. -/
theorem onlyABadConfigurationIsRefused : Obligations.OnlyABadConfigurationIsRefused :=
  ⟨fun _ => step_answers, fun _ out => by rw [step, if_neg (by simp [out])], fun _ => rfl⟩

/-- Settles O42: outside Idle a request that is presented goes to the end of the queue. -/
theorem requestOutsideIdleWaits : Obligations.RequestOutsideIdleWaits := by
  intro s n ssid pass t active waits
  have presented (r : Request) : Host.Outcome.next (present r s) = waits r := by rw [present, if_neg active]
  exact ⟨presented _, presented _, presented _, presented _, presented _, presented _, presented _, presented _⟩

/-- Settles O58: ABORT looks for a suspension point, an echo byte for the place of an echo. -/
theorem inputsOutsideTheirPlacesDoNothing : Obligations.InputsOutsideTheirPlacesDoNothing := by
  constructor
  · intro s outside
    have ignored : abortRises s = s := by rw [abortRises, if_neg (by simp [outside])]
    exact congrArg Host.Outcome.next ignored
  · intro s i outside row
    have ignored (b : Byte) : echoArrives b s = s := by rw [echoArrives, if_neg (by simp [outside])]
    have arrives : ∃ b, exec i s = .next (echoArrives b s) := by
      simp only [List.mem_cons, List.not_mem_nil, or_false] at row
      rcases row with rfl | rfl | rfl | rfl | rfl | rfl | rfl | rfl <;> exact ⟨_, rfl⟩
    obtain ⟨b, executed⟩ := arrives
    rw [executed, ignored]

end Sys2Proof.Machine

/-! ### The way of a call, state by state, without counting the rules (43_command_engine.md R181) -/

namespace Sys2Proof.Machine

open Sys2Proof.Safety

/-- More rules than a call needs make no difference. -/
theorem run_enough (k : Nat) : ∀ (j : Nat) (s : State), s.fsm.rank ≤ k → run (k + j) s = run k s := by
  induction k with
  | zero =>
    intro j s near
    have idle : s.fsm = .idle := by
      cases fsm : s.fsm <;> simp_all [Fsm.rank]
    rw [run_idle _ _ idle, run_idle _ _ idle]
  | succ k ih =>
    intro j s near
    by_cases idle : s.fsm = .idle
    · rw [run_idle _ _ idle, run_idle _ _ idle]
    · rw [Nat.add_right_comm]
      by_cases held : (action s).fsm = .acquireBus
      · rw [run_hold _ _ idle held, run_hold _ _ idle held]
      · have nearer := action_rank s idle held
        rw [run_succ _ _ idle held, run_succ _ _ idle held, ih j (action s) (by omega)]

/-- A call goes on with the rule of its engine state. -/
theorem resume_action {s : State} (active : s.fsm ≠ .idle) (leaves : (action s).fsm ≠ .acquireBus) :
    resume s = resume (action s) := by
  have near := action_rank s active leaves
  have bound := s.fsm.rank_le_callLength
  calc resume s
    _ = run 10 (action s) := run_succ 10 s active leaves
    _ = run (10 + 1) (action s) := (run_enough 10 1 _ (by simp only [callLength] at bound; omega)).symm

/-- Where the rule is known, so is the state with which the call goes on. -/
theorem resume_of_action {s t : State} (active : s.fsm ≠ .idle) (rule : action s = t) (leaves : t.fsm ≠ .acquireBus) :
    resume s = resume t := by
  subst rule
  exact resume_action active leaves

theorem resume_idle {s : State} (idle : s.fsm = .idle) : resume s = s := run_idle _ _ idle

/-- From Done the value is delivered, and the call is over (43_command_engine.md R194). -/
theorem resume_done {s : State} (done : s.fsm = .done) : resume s = { s with
    fsm := .idle, trace := s.trace ++ [.resp (.ok (callValue s.op s.slots s.m s.truncated))],
    obs := s.obs ++ [⟨.done, .idle, s.err⟩] } := by
  have deliver : action s = { s with
      fsm := .idle, trace := s.trace ++ [.resp (.ok (callValue s.op s.slots s.m s.truncated))],
      obs := s.obs ++ [⟨.done, .idle, s.err⟩] } := by
    simp [action, done, actDone, State.emit, State.enter]
  rw [resume_of_action (by simp [done]) deliver nofun, resume_idle rfl]

/-- From ReleaseBus with no error: the release, then Done (43_command_engine.md R193). -/
theorem resume_releaseBus {s : State} (releasing : s.fsm = .releaseBus) (unlatched : s.err = none) :
    resume s = { s with
      fsm := .idle, busHeld := false,
      trace := s.trace ++ [.rel, .resp (.ok (callValue s.op s.slots s.m s.truncated))],
      obs := s.obs ++ pathObs [(.releaseBus, none), (.done, none), (.idle, none)] } := by
  have release : action s = { s with
      fsm := .done, busHeld := false, trace := s.trace ++ [.rel], obs := s.obs ++ [⟨.releaseBus, .done, none⟩] } := by
    simp [action, releasing, actRelease, unlatched, outcomeState, State.emit, State.enter]
  rw [resume_of_action (by simp [releasing]) release nofun, resume_done rfl]
  simp [pathObs, unlatched]

/-- A decode that returns ends the call with its value (43_command_engine.md R191-R194). -/
theorem resume_receiveFrame_return {s t : State} (receiving : s.fsm = .receiveFrame)
    (returned : decodeCall s = (t, none)) (unlatched : t.err = none) : resume s = afterReceive t := by
  have stays : t.fsm = .receiveFrame := by
    simpa [returned, receiving] using (decodeCall_keeps s).fsm
  have receive : action s = ({ t with marker := false } : State).enter .deselectRx := by
    simp [action, receiving, actReceive, settle, returned]
  have deselects : action (({ t with marker := false } : State).enter .deselectRx) = { t with
      fsm := .releaseBus, cs := .high, marker := false, trace := t.trace ++ deselectEvents t.cfg,
      obs := t.obs ++ pathObs [(.receiveFrame, none), (.deselectRx, none), (.releaseBus, none)] } := by
    simp [action, actDeselectRx, deselect_eq, deselectEvents, State.enter, stays, unlatched, pathObs]
  rw [resume_of_action (by simp [receiving]) receive (by simp), resume_of_action (by simp) deselects nofun,
    resume_releaseBus rfl (by exact unlatched)]
  simp [afterReceive, pathObs]

/-- A ready wait that returns: the next state is entered. -/
theorem resume_wait_return {s t : State} {f g : Fsm} (waiting : s.fsm = f)
    (place : f = .awaitReadyTx ∧ g = .selectTx ∨ f = .awaitReadyRx ∧ g = .selectRx)
    (returned : waitReady s = (t, none)) : resume s = resume (t.enter g) := by
  obtain ⟨rfl, rfl⟩ | ⟨rfl, rfl⟩ := place
  · exact resume_of_action (by simp [waiting]) (by simp [action, waiting, actAwaitTx, settle, returned])
      (by simp)
  · exact resume_of_action (by simp [waiting]) (by simp [action, waiting, actAwaitRx, settle, returned])
      (by simp)

/-- A ready wait that raises ends the call along the error exit of a wait (60_exceptions.md R228). -/
theorem resume_wait_error {s t : State} {e : ErrorKind} (waiting : s.fsm = .awaitReadyTx ∨ s.fsm = .awaitReadyRx)
    (unlatched : s.err = none) (raised : waitReady s = (t, some e)) : resume s = afterWaitError t e := by
  have frame := (waitReady_spec s).1
  rw [raised] at frame
  have stays : t.fsm = s.fsm := frame.emits.keeps.fsm
  have clear : t.err = none := frame.err.trans unlatched
  have exit : errorExit t.fsm = .releaseBus := by
    rw [stays]
    rcases waiting with tx | rx
    · rw [tx]; rfl
    · rw [rx]; rfl
  have rule : action s = t.takeError e := by
    rcases waiting with tx | rx
    · simp [action, tx, actAwaitTx, settle, raised]
    · simp [action, rx, actAwaitRx, settle, raised]
  rw [State.takeError_frame, exit, clear, Option.getD_none] at rule
  have active : s.fsm ≠ .idle := by rcases waiting with place | place <;> simp [place]
  rw [resume_of_action active rule nofun, resume, callLength, run_releaseBus_error 9 rfl rfl]
  simp [afterWaitError, waitErrorEnd, pathObs]

/-- Settles O46: one rule leads from Failed to Idle, and an accept that passes clears the latch. -/
theorem failedDeliversTheErrorAndTheNextAcceptClearsIt : Obligations.FailedDeliversTheErrorAndTheNextAcceptClearsIt :=
  ⟨fun _ _ failed latched => run_failed 10 failed latched,
    fun _ _ _ _ _ => ⟨rfl, fun listed ok => (accept_of_pass rfl (by simp [listed, ok])).2⟩⟩

/-- From ResetSeq the sequence runs, and its result is delivered (43_command_engine.md R195). -/
theorem resume_resetSeq {s : State} (resetting : s.fsm = .resetSeq) : resume s = actResetSeq s := by
  have rule : action s = actResetSeq s := by simp [action, resetting]
  have ended : (actResetSeq s).fsm = .idle := rfl
  rw [resume_of_action (by simp [resetting]) rule (by simp [ended]), resume_idle ended]

/-- Settles O52: the accept, the reset sequence and its result. -/
theorem resetSequenceOperationCompletes : Obligations.ResetSequenceOperationCompletes := by
  intro s idle
  have presented : present ⟨.resetSeq, .none, none⟩ s
      = actResetSeq ((s.latched ⟨.resetSeq, .none, none⟩).enter .resetSeq) := by
    rw [present, if_pos idle, call, accept_eq]
    exact resume_resetSeq rfl
  change Host.Outcome.next (present ⟨.resetSeq, .none, none⟩ s) = _
  rw [presented, actResetSeq, resetSequence_eq]
  simp [resetTrace, State.latched, latchArgs, slotCount, State.enter, State.emit, pathObs, idle]

end Sys2Proof.Machine

/-! ### The length of a request frame (30_encoding.md R83, R84) -/

namespace Sys2Proof.Machine

/-- Settles O7: the filler is what the body lacks to a multiple of four, and Encode's limits bound the whole frame. -/
theorem requestLengthIsAlignedWithAtMostThreeFillers : Obligations.RequestLengthIsAlignedWithAtMostThreeFillers := by
  intro op ps f encoded u
  obtain ⟨aligned, short⟩ := encodeFrame_bounds encoded
  obtain ⟨-, rfl⟩ := encodeFrame_ok encoded
  have length : (padFrame (frameBody op ps)).length = u + padCount u := by
    rw [padFrame_length, frameBody_length]
  have filler := padCount_lt u
  exact ⟨aligned, by omega, by omega, short⟩

end Sys2Proof.Machine

/-! ### A decode of a well-formed reply, from its start and from its echo (41_frame_codec.md R137-R149, 42_demux.md
R160-R166) -/

namespace Sys2Proof.Machine

open Sys2Proof.Safety

/-- A single-value reply is the list reply of its one parameter (30_encoding.md R87). -/
theorem singleReply_eq_listReply (op : Byte) (payload : List Byte) :
    singleReply op payload = listReply op [payload] := by
  simp [singleReply, listReply, paramField]

theorem listReply_length (op : Byte) (records : List (List Byte)) :
    (listReply op records).length = 4 + records.length + (records.map List.length).sum := by
  have body := frameBody_length op records
  simp only [frameBody, List.length_cons, List.length_append, List.length_nil] at body
  simp only [listReply, List.length_cons, List.length_append, List.length_nil]
  omega

/-- What a decode of these records leaves in the registers of a list body, all of them fitting. -/
theorem listBody_records {s : State} {maxParams recCap : Nat} {records : List (List Byte)} {filler rest : List Byte}
    (unlatched : s.err = none) (count : records.length ≤ 255) (short : ∀ p ∈ records, p.length ≤ 255)
    (fits : ∀ p ∈ records.take (min records.length maxParams), p.length ≤ recCap) :
    let m := min records.length maxParams
    let wire := BitVec.ofNat 8 records.length :: (records.flatMap paramField ++ [Config.endMarker])
    filler.length = fillerCount s.cfg (s.rxCount + wire.length) → s.env.rx = wire ++ filler ++ rest →
    listBody maxParams recCap s = ({ s.received (wire ++ filler) rest with
      n := BitVec.ofNat 8 records.length, m := m, truncated := decide (m < records.length),
      slots := records.take m ++ s.slots.drop m }, none) := by
  intro m wire padding queued
  have within : (records.take m).length = m := by simp [m]
  have listed := ListRegs.listed_of_fits (r := s.listRegs) (maxParams := maxParams) (recCap := recCap)
    (c := BitVec.ofNat 8 records.length) (fields := records) unlatched (by rw [count_byte count]; exact fits)
  rw [count_byte count] at listed
  rw [listBody_queued maxParams recCap count short padding queued, listed]
  simp [ListRegs.counted, State.withListRegs, State.listRegs, truncatedFlag, count_byte count, terminatorError, unlatched,
    State.received, m, wire]

/-- What a decode of a single value of fitting shape leaves. -/
theorem singleBody_value {s : State} {cap : Nat} {exact : Option Nat} {payload filler rest : List Byte}
    (unlatched : s.err = none) (short : payload.length ≤ 255) (fits : valueShape cap exact payload.length = none) :
    let wire := 1 :: BitVec.ofNat 8 payload.length :: (payload ++ [Config.endMarker])
    filler.length = fillerCount s.cfg (s.rxCount + wire.length) → s.env.rx = wire ++ filler ++ rest →
    singleBody cap exact s = ({ s.received (wire ++ filler) rest with
      n := 1, m := 1, slots := payload :: s.slots.drop 1 }, none) := by
  intro wire padding queued
  have padding' : filler.length = fillerCount s.cfg (s.rxCount + (3 + payload.length)) := by
    rw [padding]
    congr 2
    simp only [wire, List.length_cons, List.length_append, List.length_nil]
    omega
  have judged := singleValueIsReadWholeThenJudged (BitVec.ofNat 8 payload.length) Config.endMarker cap exact payload
    filler rest s unlatched (length_byte payload short).symm padding' (by simp [queued, wire])
  have shape : (if cap < payload.length then some ErrorKind.bufferTooSmall
      else if payload.length < exact.getD 0 then some .shortValue else none) = none := fits
  rw [judged]
  simp only [shape]
  simp [State.received, receivedEvents, wire, Config.endMarker]
  omega

/-- Where the marker has been found, a decode is the echo and then its body. -/
theorem decodeSingle_marked {s : State} (marked : s.marker = true) (op : Byte) (cap : Nat) (exact : Option Nat) :
    decodeSingle op cap exact s = (echoCheck op s).andThen (singleBody cap exact) := by
  simp [decodeSingle, findMarker, marked, Ended.andThen]

theorem decodeList_marked {s : State} (marked : s.marker = true) (op : Byte) (maxParams recCap : Nat) :
    decodeList op maxParams recCap s = (echoCheck op s).andThen (listBody maxParams recCap) := by
  simp [decodeList, findMarker, marked, Ended.andThen]

/-- From its start, a decode in List mode clears the truncation flag first. -/
theorem decodeList_unmarked {s : State} (unmarked : s.marker = false) (op : Byte) (maxParams recCap : Nat) :
    decodeList op maxParams recCap s
      = ((findMarker { s with truncated := false }).andThen (echoCheck op)).andThen (listBody maxParams recCap) := by
  rw [decodeList, if_neg (by simp [unmarked])]

/-- The state behind the echo of the operation. -/
def State.echoed (s : State) (op : Byte) (rest : List Byte) : State :=
  { s.received [replyOp op] rest with marker := false }

/-- Past the echo of its operation a decode goes on with its body. -/
theorem echoCheck_andThen {s : State} {op : Byte} {rest : List Byte} (notSentinel : s.cfg.errCmd ≠ replyOp op)
    (queued : s.env.rx = replyOp op :: rest) (body : State → Ended) :
    (echoCheck op s).andThen body = body (s.echoed op rest) := by
  rw [echoCheck_echo queued notSentinel.symm]
  rfl

section atEcho
variable {s : State} {op : Byte} {filler rest : List Byte} (marked : s.marker = true) (unlatched : s.err = none)
  (notSentinel : s.cfg.errCmd ≠ replyOp op)
include marked unlatched notSentinel

/-- From its echo on, a single value of fitting shape is decoded to its end. -/
theorem decodeSingle_atEcho {cap : Nat} {exact : Option Nat} {payload : List Byte} (short : payload.length ≤ 255)
    (fits : valueShape cap exact payload.length = none) :
    let wire := replyOp op :: 1 :: BitVec.ofNat 8 payload.length :: (payload ++ [Config.endMarker])
    filler.length = fillerCount s.cfg (s.rxCount + wire.length) → s.env.rx = wire ++ filler ++ rest →
    decodeSingle op cap exact s = ({ s.received (wire ++ filler) rest with
      marker := false, n := 1, m := 1, slots := payload :: s.slots.drop 1 }, none) := by
  intro wire padding queued
  have behind : filler.length = fillerCount s.cfg (s.rxCount + 1 + (wire.length - 1)) := by
    rw [padding]
    congr 1
    simp only [wire, List.length_cons]
    omega
  have queued' : s.env.rx = replyOp op ::
      (1 :: BitVec.ofNat 8 payload.length :: (payload ++ [Config.endMarker]) ++ filler ++ rest) := queued
  rw [decodeSingle_marked marked, echoCheck_andThen notSentinel queued',
    singleBody_value (s := s.echoed op _) unlatched short fits (filler := filler) (rest := rest) behind rfl]
  simp [State.echoed, State.received, wire]
  omega

/-- From its echo on, a list of fitting records is decoded to its end. -/
theorem decodeList_atEcho {maxParams recCap : Nat} {records : List (List Byte)} (count : records.length ≤ 255)
    (short : ∀ p ∈ records, p.length ≤ 255)
    (fits : ∀ p ∈ records.take (min records.length maxParams), p.length ≤ recCap) :
    let m := min records.length maxParams
    let wire := replyOp op :: BitVec.ofNat 8 records.length :: (records.flatMap paramField ++ [Config.endMarker])
    filler.length = fillerCount s.cfg (s.rxCount + wire.length) → s.env.rx = wire ++ filler ++ rest →
    decodeList op maxParams recCap s = ({ s.received (wire ++ filler) rest with
      marker := false, n := BitVec.ofNat 8 records.length, m := m, truncated := decide (m < records.length),
      slots := records.take m ++ s.slots.drop m }, none) := by
  intro m wire padding queued
  have behind : filler.length = fillerCount s.cfg (s.rxCount + 1 + (wire.length - 1)) := by
    rw [padding]
    congr 1
    simp only [wire, List.length_cons]
    omega
  have queued' : s.env.rx = replyOp op ::
      (BitVec.ofNat 8 records.length :: (records.flatMap paramField ++ [Config.endMarker]) ++ filler ++ rest) := queued
  rw [decodeList_marked marked, echoCheck_andThen notSentinel queued',
    listBody_records (s := s.echoed op _) unlatched count short fits (filler := filler) (rest := rest) behind rfl]
  simp [State.echoed, State.received, wire, m]
  omega

end atEcho

/-- The state behind a start marker that the first probe has found. -/
def State.found (s : State) (ab : List Level) (rest : List Byte) : State :=
  { s.hunted [Config.startMarker] ab rest with probe := 1, m := 0, marker := true }

section fromStart
variable {s : State} {op : Byte} {filler rest : List Byte} {ab : List Level} (unmarked : s.marker = false)
  (limit : 1 ≤ s.cfg.probeLimit) (aborts : s.env.abort = .low :: ab)
include unmarked limit aborts

theorem findMarker_at_once (queued : s.env.rx = Config.startMarker :: rest) :
    findMarker s = (s.found ab rest, none) := by
  obtain ⟨k, limit⟩ := Nat.exists_eq_add_of_le' limit
  rw [findMarker, if_neg (by simp [unmarked]), limit,
    hunt_found k (s := { s with probe := 0, m := 0 }) aborts queued]
  rfl

/-- A decode in Single mode whose first byte is the start marker goes on from the echo. -/
theorem decodeSingle_at_once (queued : s.env.rx = Config.startMarker :: rest) (cap : Nat) (exact : Option Nat) :
    decodeSingle op cap exact s = decodeSingle op cap exact (s.found ab rest) := by
  rw [decodeSingle_marked (s := s.found ab rest) rfl, decodeSingle, findMarker_at_once unmarked limit aborts queued]
  rfl

/-- And so does a decode in List mode. -/
theorem decodeList_at_once (queued : s.env.rx = Config.startMarker :: rest) (maxParams recCap : Nat) :
    decodeList op maxParams recCap s
      = decodeList op maxParams recCap (({ s with truncated := false } : State).found ab rest) := by
  have found := findMarker_at_once (s := { s with truncated := false }) unmarked limit aborts queued
  rw [decodeList_marked (s := State.found _ ab rest) rfl, decodeList_unmarked unmarked, found]
  rfl

variable (unlatched : s.err = none) (notSentinel : s.cfg.errCmd ≠ replyOp op)
include unlatched notSentinel

/-- A well-formed single-value reply is decoded, its value stored in slot 0 (41_frame_codec.md R145). -/
theorem decodeSingle_reply {cap : Nat} {exact : Option Nat} {payload : List Byte} (short : payload.length ≤ 255)
    (fits : valueShape cap exact payload.length = none)
    (padding : filler.length = fillerCount s.cfg (s.rxCount + (singleReply op payload).length))
    (queued : s.env.rx = singleReply op payload ++ filler ++ rest) :
    decodeSingle op cap exact s = ({ s with
      probe := 1, marker := false, n := 1, m := 1, slots := payload :: s.slots.drop 1,
      rxCount := s.rxCount + (singleReply op payload ++ filler).length,
      trace := s.trace ++ .abt .low :: receivedEvents (singleReply op payload ++ filler),
      env := { s.env with abort := ab, rx := rest } }, none) := by
  rw [decodeSingle_at_once unmarked limit aborts queued,
    decodeSingle_atEcho (s := s.found ab _) (filler := filler) (rest := rest) rfl unlatched notSentinel short fits
    ?padding (by rfl)]
  case padding =>
    rw [padding]
    simp [State.found, State.hunted, singleReply]
    congr 1
    omega
  simp [State.found, State.hunted, State.received, singleReply, huntEvents, receivedEvents]
  omega

/-- A well-formed list reply is decoded, the records within the clamp stored (42_demux.md R166). -/
theorem decodeList_reply {maxParams recCap : Nat} {records : List (List Byte)} (count : records.length ≤ 255)
    (short : ∀ p ∈ records, p.length ≤ 255)
    (fits : ∀ p ∈ records.take (min records.length maxParams), p.length ≤ recCap)
    (padding : filler.length = fillerCount s.cfg (s.rxCount + (listReply op records).length))
    (queued : s.env.rx = listReply op records ++ filler ++ rest) :
    let m := min records.length maxParams
    decodeList op maxParams recCap s = ({ s with
      probe := 1, marker := false, n := BitVec.ofNat 8 records.length, m := m,
      truncated := decide (m < records.length), slots := records.take m ++ s.slots.drop m,
      rxCount := s.rxCount + (listReply op records ++ filler).length,
      trace := s.trace ++ .abt .low :: receivedEvents (listReply op records ++ filler),
      env := { s.env with abort := ab, rx := rest } }, none) := by
  intro m
  rw [decodeList_at_once unmarked limit aborts queued,
    decodeList_atEcho (s := State.found { s with truncated := false } ab _) (filler := filler) (rest := rest) rfl unlatched
    notSentinel count short fits ?padding (by rfl)]
  case padding =>
    rw [padding]
    simp [State.found, State.hunted, listReply]
    congr 1
    omega
  simp [State.found, State.hunted, State.received, listReply, huntEvents, receivedEvents, m]
  omega

end fromStart

/-- The unpadded request frame with its reply bit set is the reply of the same parameters (30_encoding.md R81, R87). -/
theorem set_replyFlag_frame {op : Byte} {ps : List (List Byte)} {f : List Byte} (encoded : encodeFrame op ps = .ok f) :
    (f.take (4 + ps.length + (ps.map List.length).sum)).set 1 (f.getD 1 0 ||| 0x80) = listReply op ps := by
  obtain ⟨-, rfl⟩ := encodeFrame_ok encoded
  rw [padFrame, List.take_left' (frameBody_length op ps)]
  simp [frameBody, listReply, replyOp, requestOp, Config.replyFlag]

/-- The reply bit is not part of the command (30_encoding.md R81). -/
theorem replyOp_and_cmdMask (op : Byte) : replyOp op &&& Config.cmdMask = op &&& Config.cmdMask := by
  have masked : Config.replyFlag &&& Config.cmdMask = 0 := by decide
  calc replyOp op &&& Config.cmdMask
    _ = Config.cmdMask &&& (op &&& Config.cmdMask) ||| Config.cmdMask &&& Config.replyFlag := by
      rw [replyOp, BitVec.and_comm, BitVec.and_or_distrib_left]
    _ = Config.cmdMask &&& (op &&& Config.cmdMask) ||| 0#8 := by rw [BitVec.and_comm _ Config.replyFlag, masked]; rfl
    _ = op &&& Config.cmdMask := by
      rw [BitVec.or_zero, BitVec.and_comm op, ← BitVec.and_assoc, BitVec.and_self]

/-- Settles O8: the echoed frame is a well-formed reply, and neither mode leaves anything of it. -/
theorem decodeOfEncodedFrameGivesTheParameters : Obligations.DecodeOfEncodedFrameGivesTheParameters := by
  intro op ps f filler rx ab s encoded config notSentinel unmarked unlatched aborts u padding queued
  obtain ⟨few, short⟩ := (encodable_iff ps).1 (encodeFrame_ok encoded).1
  have limit : 1 ≤ s.cfg.probeLimit := by
    simp only [Cfg.inRange, Bool.and_eq_true, decide_eq_true_eq] at config
    omega
  rw [set_replyFlag_frame encoded] at queued
  have padding' : filler.length = fillerCount s.cfg (s.rxCount + (listReply op ps).length) := by
    rw [padding, listReply_length]
  refine ⟨fun maxParams recCap room fits => ?list, fun cap p single fits => ?single, replyOp_and_cmdMask op⟩
  case list =>
    have clamp : min ps.length maxParams = ps.length := Nat.min_eq_left room
    have decoded := decodeList_reply unmarked limit aborts unlatched notSentinel (maxParams := maxParams)
      (recCap := recCap) (by omega) short (fun p mem => fits p (List.mem_of_mem_take mem)) padding' queued
    simp only [clamp] at decoded
    rw [decoded]
    simp
  case single =>
    subst single
    rw [← singleReply_eq_listReply] at padding' queued
    have shape : valueShape cap none p.length = none := by simp [valueShape, Nat.not_lt.2 fits]
    rw [decodeSingle_reply unmarked limit aborts unlatched notSentinel (short p (by simp)) shape padding' queued]
    simp

end Sys2Proof.Machine

/-! ### The echo rows, where the block is about to read an echo (41_frame_codec.md R138, R139) -/

namespace Sys2Proof.Machine

open Sys2Proof.Safety

/-- An echo byte on which the decode returns ends the call with its value. -/
theorem echoArrives_return {s t : State} {b : Byte} (atEcho : s.atEcho = true)
    (returned : decodeCall { s with env := { s.env with rx := b :: s.env.rx } } = (t, none)) (unlatched : t.err = none) :
    echoArrives b s = afterReceive t := by
  obtain ⟨receiving, -⟩ := State.atEcho_iff.1 atEcho
  rw [echoArrives, if_pos atEcho]
  exact resume_receiveFrame_return receiving returned unlatched

theorem decodeCall_of_mode {s : State} {b : Byte} {mode : DecodeMode} {r : Ended} (op : s.op = .cmd b)
    (asks : decodeMode s.cfg b s.args = mode) (decoded : decodeReply b mode s = r) : decodeCall s = r := by
  simp only [decodeCall, op, opByte, asks, decoded]

/-- What the operations of a single value ask for, and the lengths that fit (41_frame_codec.md R141). -/
theorem decodeMode_single_of_fits {c : Cfg} {op : Byte} {a : Args} {len : Nat} (notScan : op ≠ 0x27)
    (version : op = 0x37 → len ≤ a.cap) (mac : op = 0x22 → len = c.macLen)
    (status : op ≠ 0x37 → op ≠ 0x22 → len = 1) :
    ∃ cap exact, decodeMode c op a = .single cap exact ∧ valueShape cap exact len = none := by
  unfold decodeMode valueShape
  rw [if_neg notScan]
  split_ifs with isVersion isMac
  · exact ⟨a.cap, none, rfl, by simp [Nat.not_lt.2 (version isVersion)]⟩
  · exact ⟨c.macLen, some c.macLen, rfl, by simp [mac isMac]⟩
  · exact ⟨1, some 1, rfl, by simp [status isVersion isMac]⟩

/-- Settles O54: the row's byte is the echo of its operation, and behind it stands a value that fits. -/
theorem singleEchoRowsFinishTheirCall : Obligations.SingleEchoRowsFinishTheirCall := by
  intro s payload filler rx op i row atEcho unlatched inFlight notSentinel short version mac status padding queued
  obtain ⟨-, marked⟩ := State.atEcho_iff.1 atEcho
  have place : op ≠ 0x27 ∧ encode s.cfg.errCmd i = .echo (replyOp op) := by
    obtain ⟨rfl, rfl⟩ | ⟨rfl, rfl⟩ | ⟨rfl, rfl⟩ | ⟨rfl, rfl⟩ | ⟨rfl, rfl⟩ | ⟨rfl, rfl⟩ := row <;> exact ⟨by decide, rfl⟩
  obtain ⟨notScan, echo⟩ := place
  obtain ⟨cap, exact, asks, fits⟩ := decodeMode_single_of_fits notScan version mac status
  have decoded := decodeSingle_atEcho (s := { s with env := { s.env with rx := replyOp op :: s.env.rx } })
    (filler := filler) (rest := rx) (cap := cap) (exact := exact) marked unlatched notSentinel short fits
    (by rw [padding]; congr 2; simp only [List.length_cons, List.length_append, List.length_nil]; omega)
    (by simp [queued, Config.endMarker])
  rw [exec_of_encode_echo echo, echoArrives_return atEcho (decodeCall_of_mode inFlight asks decoded) unlatched]
  simp [State.received, receivedEvents, afterReceive, Config.endMarker]
  omega

/-- Settles O55: the row's byte is the echo of the scan, and behind it stand records that fit. -/
theorem scanEchoRowFinishesItsCall : Obligations.ScanEchoRowFinishesItsCall := by
  intro s records filler rx atEcho unlatched inFlight notSentinel count short m fits wire padding queued
  obtain ⟨-, marked⟩ := State.atEcho_iff.1 atEcho
  have echo : replyOp 0x27 = 0xA7 := by decide
  have asks : decodeMode s.cfg 0x27 s.args = .list (scanCap s.cfg s.args) s.cfg.ssidMax := rfl
  have decoded := decodeList_atEcho (op := 0x27)
    (s := { s with env := { s.env with rx := replyOp 0x27 :: s.env.rx } })
    (filler := filler) (rest := rx) (maxParams := scanCap s.cfg s.args) (recCap := s.cfg.ssidMax) marked unlatched
    notSentinel count short fits
    (padding.trans (congrArg (fun k => fillerCount s.cfg (s.rxCount + k)) (Nat.add_comm 1 _)))
    (by simp [queued, wire, Config.endMarker])
  rw [echo] at decoded
  rw [exec_of_encode_echo (i := .scannetworksReply) (b := 0xA7) rfl,
    echoArrives_return atEcho (decodeCall_of_mode inFlight asks decoded) unlatched]
  simp [State.received, receivedEvents, afterReceive, wire, m, scanCap, Config.endMarker]
  omega

/-- Settles O56: the sentinel is looked for whatever the call in flight is. -/
theorem errorReplyEndsTheCallInFlight : Obligations.ErrorReplyEndsTheCallInFlight := by
  intro s op x y filler rx atEcho unlatched inFlight padding queued
  have raised := echoCheck_sentinel (s := { s with env := { s.env with rx := s.cfg.errCmd :: s.env.rx } }) op
    (x := x) (y := y) (filler := filler) (rest := rx) padding (by simp [queued])
  rw [exec_of_encode_echo (i := .errCmdReply) (b := s.cfg.errCmd) rfl, echoArrives_error atEcho inFlight raised]
  simp [State.received, receivedEvents, afterReceiveError, unlatched]
  omega

end Sys2Proof.Machine

/-! ### An input taken in by a step, and the same input taken by the engine (log 12, log 14) -/

namespace Sys2Proof.Machine

open Sys2Proof.Safety

/-- The state with its next received byte drawn beforehand and put in front of the queue. -/
def State.rxDrawn (s : State) : State :=
  { s.takeRx.2 with env := { s.takeRx.2.env with rx := s.takeRx.1 :: s.takeRx.2.env.rx } }

/-- The state with its next ABORT sample drawn beforehand and put in front of the queue. -/
def State.abortDrawn (s : State) : State :=
  { s.takeAbort.2 with env := { s.takeAbort.2.env with abort := s.takeAbort.1 :: s.takeAbort.2.env.abort } }

theorem State.rxDrawn_frame (s : State) : s.rxDrawn = { s with env := s.rxDrawn.env } := by
  unfold State.rxDrawn
  rw [s.takeRx_frame]

theorem State.abortDrawn_frame (s : State) : s.abortDrawn = { s with env := s.abortDrawn.env } := by
  unfold State.abortDrawn
  rw [s.takeAbort_frame]

/-- A byte drawn beforehand is the byte that is read. -/
theorem State.rxByte_rxDrawn (s : State) : s.rxDrawn.rxByte = s.rxByte := by
  cases queued : s.env.rx with
  | nil => simp [State.rxDrawn, State.rxByte, State.takeRx, queued, State.tickOn, State.emit]
  | cons a rest => simp [State.rxDrawn, State.rxByte, State.takeRx, queued]

/-- A sample drawn beforehand is the sample that is taken. -/
theorem State.sampleAbort_abortDrawn (s : State) : s.abortDrawn.sampleAbort = s.sampleAbort := by
  cases queued : s.env.abort with
  | nil => simp [State.abortDrawn, State.sampleAbort, State.takeAbort, queued, State.tickOn, State.emit]
  | cons a rest => simp [State.abortDrawn, State.sampleAbort, State.takeAbort, queued]

theorem echoCheck_rxDrawn (op : Byte) (s : State) : echoCheck op s.rxDrawn = echoCheck op s := by
  simp only [echoCheck, s.rxByte_rxDrawn]
  rw [s.rxDrawn_frame]

/-- Past the start marker a decode begins with the byte drawn. -/
theorem decodeCall_rxDrawn {s : State} {b : Byte} (marked : s.marker = true) (op : s.op = .cmd b) :
    decodeCall s.rxDrawn = decodeCall s := by
  have marked' : s.rxDrawn.marker = true := by rw [s.rxDrawn_frame]; exact marked
  have op' : s.rxDrawn.op = .cmd b := by rw [s.rxDrawn_frame]; exact op
  have asks : decodeMode s.rxDrawn.cfg b s.rxDrawn.args = decodeMode s.cfg b s.args := by rw [s.rxDrawn_frame]
  refine decodeCall_of_mode op' asks (Eq.trans ?_ (decodeCall_of_mode op rfl rfl).symm)
  cases decodeMode s.cfg b s.args with
  | single cap exact =>
    simp only [decodeReply]
    rw [decodeSingle_marked marked, decodeSingle_marked marked', echoCheck_rxDrawn]
  | list maxParams recCap =>
    simp only [decodeReply]
    rw [decodeList_marked marked, decodeList_marked marked', echoCheck_rxDrawn]

/-- A hunt begins with the sample drawn, whatever is written beside the environment before it. -/
theorem hunt_abortDrawn (k : Nat) (s : State) : hunt k s.abortDrawn = hunt k s := by
  cases k with
  | zero => simp only [hunt, s.sampleAbort_abortDrawn]
  | succ k =>
    simp only [hunt, s.sampleAbort_abortDrawn]
    rw [s.abortDrawn_frame]

theorem findMarker_abortDrawn {s : State} (unmarked : s.marker = false) : findMarker s.abortDrawn = findMarker s := by
  have unmarked' : s.abortDrawn.marker = false := by rw [s.abortDrawn_frame]; exact unmarked
  have limit : s.abortDrawn.cfg.probeLimit = s.cfg.probeLimit := by rw [s.abortDrawn_frame]
  have cleared : ({ s.abortDrawn with probe := 0, m := 0 } : State)
      = ({ s with probe := 0, m := 0 } : State).abortDrawn := by
    cases queued : s.env.abort <;> simp [State.abortDrawn, State.takeAbort, queued, State.tickOn]
  rw [findMarker, findMarker, if_neg (by simp [unmarked']), if_neg (by simp [unmarked]), limit, cleared,
    hunt_abortDrawn]

/-- Before the start marker a decode begins with the sample drawn. -/
theorem decodeCall_abortDrawn {s : State} {b : Byte} (unmarked : s.marker = false) (op : s.op = .cmd b) :
    decodeCall s.abortDrawn = decodeCall s := by
  have unmarked' : s.abortDrawn.marker = false := by rw [s.abortDrawn_frame]; exact unmarked
  have op' : s.abortDrawn.op = .cmd b := by rw [s.abortDrawn_frame]; exact op
  have asks : decodeMode s.abortDrawn.cfg b s.abortDrawn.args = decodeMode s.cfg b s.args := by rw [s.abortDrawn_frame]
  have cleared : ({ s.abortDrawn with truncated := false } : State)
      = ({ s with truncated := false } : State).abortDrawn := by
    cases queued : s.env.abort <;> simp [State.abortDrawn, State.takeAbort, queued, State.tickOn]
  refine decodeCall_of_mode op' asks (Eq.trans ?_ (decodeCall_of_mode op rfl rfl).symm)
  cases decodeMode s.cfg b s.args with
  | single cap exact =>
    simp only [decodeReply, decodeSingle]
    rw [findMarker_abortDrawn unmarked]
  | list maxParams recCap =>
    simp only [decodeReply]
    rw [decodeList_unmarked unmarked, decodeList_unmarked unmarked']
    exact congrArg (fun r => (Ended.andThen r (echoCheck b)).andThen (listBody maxParams recCap))
      ((congrArg findMarker cleared).trans (findMarker_abortDrawn (by exact unmarked)))

/-- A ready wait takes the sample drawn at its first poll; its timer is started before. -/
theorem waitReady_abortDrawn (s : State) : waitReady s.abortDrawn = waitReady s := by
  have started : s.abortDrawn.startTimer = s.startTimer.abortDrawn := by
    cases queued : s.env.abort <;> simp [State.abortDrawn, State.takeAbort, queued, State.tickOn, State.startTimer]
  simp only [waitReady, started, poll, State.sampleAbort_abortDrawn]

/-- The arrival of the byte that the environment answers is the call going on. -/
theorem echoArrives_takeRx {s : State} {b : Byte} (atEcho : s.atEcho = true) (op : s.op = .cmd b) :
    echoArrives s.takeRx.1 s.takeRx.2 = resume s := by
  obtain ⟨receiving, marked⟩ := State.atEcho_iff.1 atEcho
  have atEcho' : s.takeRx.2.atEcho = true := by rw [s.takeRx_frame]; exact atEcho
  have receiving' : s.rxDrawn.fsm = .receiveFrame := by rw [s.rxDrawn_frame]; exact receiving
  rw [echoArrives, if_pos atEcho']
  change resume s.rxDrawn = resume s
  refine resume_congr _ _ (by simp [receiving']) (by simp [receiving]) ?_
  simp only [action, receiving, receiving', actReceive, decodeCall_rxDrawn marked op]

/-- ABORT that rises where the environment answers 1 is the call going on. -/
theorem abortRises_takeAbort {s : State} {b : Byte} (suspended : s.suspended = true) (op : s.op = .cmd b)
    (rises : s.takeAbort.1 = .high) : abortRises s.takeAbort.2 = resume s := by
  have suspended' : s.takeAbort.2.suspended = true := by rw [s.takeAbort_frame]; exact suspended
  have drawn :
      ({ s.takeAbort.2 with env := { s.takeAbort.2.env with abort := .high :: s.takeAbort.2.env.abort } } : State)
        = s.abortDrawn := by rw [State.abortDrawn, rises]
  have place : s.abortDrawn.fsm = s.fsm := by rw [s.abortDrawn_frame]
  rw [abortRises, if_pos suspended', drawn]
  obtain tx | rx | ⟨receiving, unmarked⟩ := State.suspended_iff.1 suspended
  · refine resume_congr _ _ (by simp [place, tx]) (by simp [tx]) ?_
    simp only [action, place, tx, actAwaitTx, waitReady_abortDrawn]
  · refine resume_congr _ _ (by simp [place, rx]) (by simp [rx]) ?_
    simp only [action, place, rx, actAwaitRx, waitReady_abortDrawn]
  · refine resume_congr _ _ (by simp [place, receiving]) (by simp [receiving]) ?_
    simp only [action, place, receiving, actReceive, decodeCall_abortDrawn unmarked op]

/-- A step at the place of an echo is the arrival of the next byte, whether a row lists it or not. -/
theorem step_atEcho {s : State} (config : Cfg.inRange s.cfg = true) (atEcho : s.atEcho = true) :
    step s = .next (echoArrives s.takeRx.1 s.takeRx.2) := by
  cases row : decodeEcho s.cfg.errCmd s.takeRx.1 with
  | ok i =>
    rw [step_of_fetch config (fetch_echo atEcho) row]
    have echo := encode_of_decodeEcho row
    exact exec_of_encode_echo (by rw [s.takeRx_frame]; exact echo)
  | error e => simp [step, config, fetch_echo atEcho, decode, row, unlisted]

/-- Settles O24: the input that a step takes in is the one that the engine takes next. -/
theorem stepInsideACallContinuesIt : Obligations.StepInsideACallContinuesIt := by
  intro s b config active op
  by_cases atEcho : s.atEcho = true
  · rw [step_atEcho config atEcho, echoArrives_takeRx atEcho op]
  by_cases suspended : s.suspended = true
  · have fetched := fetch_suspended suspended
    by_cases rises : s.takeAbort.1 = .high
    · rw [if_pos rises] at fetched
      rw [step_of_fetch config fetched (i := .abort) rfl]
      exact congrArg Host.Outcome.next (abortRises_takeAbort suspended op rises)
    · rw [if_neg rises] at fetched
      exact step_of_fetch_none config fetched
  · exact step_of_fetch_none config
      (fetch_eq_none active (Bool.eq_false_of_not_eq_true atEcho) (Bool.eq_false_of_not_eq_true suspended))

/-! ### ABORT at a suspension point (43_command_engine.md R197, R208) -/

/-- A hunt that finds ABORT at 1 before its first probe (41_frame_codec.md R137). -/
theorem findMarker_cancelled {s : State} {ab : List Level} (unmarked : s.marker = false)
    (aborts : s.env.abort = .high :: ab) : findMarker s = ({ s with
      probe := 0, m := 0, env := { s.env with abort := ab }, trace := s.trace ++ [.abt .high] }, some .cancelled) := by
  rw [findMarker, if_neg (by simp [unmarked]), hunt_cancelled _ (s := { s with probe := 0, m := 0 }) aborts]

/-- A decode in either mode whose hunt is cancelled at once; the mode of the scan clears the truncation flag first. -/
theorem decodeCall_cancelled {s : State} {b : Byte} {ab : List Level} (unmarked : s.marker = false)
    (op : s.op = .cmd b) (aborts : s.env.abort = .high :: ab) : decodeCall s = ({ s with
      probe := 0, m := 0, truncated := if b = 0x27 then false else s.truncated, env := { s.env with abort := ab },
      trace := s.trace ++ [.abt .high] }, some .cancelled) := by
  by_cases scan : b = 0x27
  · refine decodeCall_of_mode op (by rw [decodeMode, if_pos scan]) ?_
    simp only [decodeReply]
    rw [decodeList_unmarked unmarked, findMarker_cancelled (s := { s with truncated := false }) unmarked aborts, if_pos scan]
    rfl
  · obtain ⟨cap, exact, asks⟩ : ∃ cap exact, decodeMode s.cfg b s.args = .single cap exact := by
      rw [decodeMode, if_neg scan]
      split_ifs <;> exact ⟨_, _, rfl⟩
    refine decodeCall_of_mode op asks ?_
    simp only [decodeReply, decodeSingle]
    rw [findMarker_cancelled unmarked aborts, if_neg scan]
    rfl

/-- Settles O53: the sample that ABORT puts in front is the first one that a wait or a hunt takes. -/
theorem abortCancelsAtASuspensionPoint : Obligations.AbortCancelsAtASuspensionPoint := by
  intro s unlatched
  refine ⟨fun waiting => ?wait, fun b receiving unmarked op => ?hunt⟩
  case wait =>
    have suspended : s.suspended = true := State.suspended_iff.2 (waiting.imp_right .inl)
    refine ⟨Config.timerNow s.env.timers, ?_⟩
    change Host.Outcome.next (abortRises s) = _
    rw [abortRises, if_pos suspended]
    exact congrArg Host.Outcome.next <|
      resume_wait_error (s := { s with env := { s.env with abort := .high :: s.env.abort } }) waiting unlatched
        (waitReady_cancelled _ rfl)
  case hunt =>
    have suspended : s.suspended = true := State.suspended_iff.2 (.inr (.inr ⟨receiving, unmarked⟩))
    change Host.Outcome.next (abortRises s) = _
    rw [abortRises, if_pos suspended,
      resume_receiveFrame_error (s := { s with env := { s.env with abort := .high :: s.env.abort } }) receiving
        (decodeCall_cancelled unmarked op rfl)]
    simp [unlatched]

end Sys2Proof.Machine

/-! ### The errors of a decode (41_frame_codec.md R137-R143, 42_demux.md R164, R165) -/

namespace Sys2Proof.Machine

open Sys2Proof.Safety

/-- No decode raises the errors of the argument check and of the ready waits. -/
def isDecodeError (e : ErrorKind) : Prop := e ≠ .argumentOutOfRange ∧ e ≠ .handshakeTimeout

/-- How a decode that began with a clear latch stands: after a return the latch is clear, after a raise it holds the error
raised or nothing. -/
def Judged (r : Ended) : Prop :=
  match r.2 with
  | none => r.1.err = none
  | some e => (r.1.err = none ∨ r.1.err = some e) ∧ isDecodeError e

theorem Judged.of_unlatched {r : Ended} (unlatched : r.1.err = none) (decodes : ∀ e, r.2 = some e → isDecodeError e) :
    Judged r := by
  unfold Judged
  split
  · exact unlatched
  · exact ⟨.inl unlatched, decodes _ ‹_›⟩

theorem Judged.andThen {r : Ended} {f : State → Ended} (head : Judged r) (body : ∀ t, t.err = none → Judged (f t)) :
    Judged (r.andThen f) := by
  obtain ⟨t, e⟩ := r
  cases e with
  | none => exact body t head
  | some e => exact head

theorem hunt_error (k : Nat) : ∀ (s : State) (e : ErrorKind), (hunt k s).2 = some e → isDecodeError e := by
  induction k with
  | zero =>
    intro s e raised
    unfold hunt at raised
    split at raised <;> cases raised <;> exact ⟨nofun, nofun⟩
  | succ k ih =>
    intro s e raised
    unfold hunt at raised
    dsimp only at raised
    split at raised
    · cases raised
      exact ⟨nofun, nofun⟩
    · split at raised
      · cases raised
      · exact ih _ e raised

theorem findMarker_judged {s : State} (unlatched : s.err = none) : Judged (findMarker s) := by
  unfold findMarker
  split
  · exact unlatched
  · refine .of_unlatched ?_ (hunt_error _ _)
    have kept := congrArg ListRegs.err (hunt_listRegs s.cfg.probeLimit { s with probe := 0, m := 0 })
    exact kept.trans unlatched

theorem echoCheck_judged (op : Byte) {s : State} (unlatched : s.err = none) : Judged (echoCheck op s) := by
  refine .of_unlatched ((congrArg ListRegs.err (echoCheck_listRegs op s)).trans unlatched) fun e raised => ?_
  unfold echoCheck at raised
  dsimp only at raised
  split_ifs at raised <;> cases raised <;> exact ⟨nofun, nofun⟩

/-- The end of a frame reports what is latched, or its own error. -/
theorem finishFrame_judged {s : State} (latched : ∀ e, s.err = some e → isDecodeError e) : Judged (finishFrame s) := by
  have ended : finishFrame s = ((padRx s.rxByte.2).withListRegs s.listRegs, s.err.or (terminatorError s.rxByte.1)) :=
    finishFrame_withListRegs s s.listRegs
  rw [ended]
  cases err : s.err with
  | some e => exact ⟨.inr err, latched e err⟩
  | none =>
    refine .of_unlatched err fun e raised => ?_
    obtain absent | missing := terminatorError_eq s.rxByte.1
    · cases absent.symm.trans raised
    · cases missing.symm.trans raised
      exact ⟨nofun, nofun⟩

/-- A single value latches what is wrong with its length, whatever the environment answers. -/
theorem readValue_err {s : State} (unlatched : s.err = none) (cap : Nat) (exact : Option Nat) :
    (readValue cap exact s).err = valueShape cap exact s.rxByte.1.toNat := by
  have before : s.rxByte.2.err = none := (congrArg ListRegs.err s.rxByte_listRegs).trans unlatched
  have read : (readBytes s.rxByte.1.toNat (latchShape cap exact s.rxByte.1.toNat s.rxByte.2)).2.err
      = valueShape cap exact s.rxByte.1.toNat := by
    rw [latchShape_of_unlatched cap exact s.rxByte.1.toNat before]
    exact congrArg ListRegs.err (readBytes_listRegs _ _)
  unfold readValue
  dsimp only
  split
  · rename_i clear
    simp only [State.store, clear]
    exact clear.symm.trans read
  · exact read

theorem valueShape_error {cap : Nat} {exact : Option Nat} {len : Nat} {e : ErrorKind}
    (wrong : valueShape cap exact len = some e) : isDecodeError e := by
  unfold valueShape at wrong
  split_ifs at wrong <;> cases wrong <;> exact ⟨nofun, nofun⟩

theorem singleBody_judged (cap : Nat) (exact : Option Nat) {s : State} (unlatched : s.err = none) :
    Judged (singleBody cap exact s) := by
  have counted : ({ s.rxByte.2 with n := s.rxByte.1 } : State).err = none :=
    (congrArg ListRegs.err s.rxByte_listRegs).trans unlatched
  unfold singleBody
  dsimp only
  split
  · exact finishFrame_judged fun e latched => valueShape_error ((readValue_err counted cap exact).symm.trans latched)
  · exact ⟨.inl counted, nofun, nofun⟩

theorem listBody_judged (maxParams recCap : Nat) {s : State} (unlatched : s.err = none) :
    Judged (listBody maxParams recCap s) := by
  have before : s.listRegs.err = none := unlatched
  rw [listBody_eq_listFields, ListRegs.listed_of_unlatched before]
  dsimp only
  split
  · exact ⟨.inr rfl, nofun, nofun⟩
  · refine .of_unlatched rfl fun e raised => ?_
    obtain absent | missing := terminatorError_eq s.listFields.2.rxByte.1
    · cases (absent ▸ raised : (none : Option ErrorKind) = some e)
    · cases (missing ▸ raised : some ErrorKind.missingTerminator = some e)
      exact ⟨nofun, nofun⟩

theorem decodeReply_judged (op : Byte) (mode : DecodeMode) {s : State} (unlatched : s.err = none) :
    Judged (decodeReply op mode s) := by
  cases mode with
  | single cap exact =>
    exact ((findMarker_judged unlatched).andThen fun _ => echoCheck_judged op).andThen fun _ => singleBody_judged cap exact
  | list maxParams recCap =>
    refine (Judged.andThen (findMarker_judged ?_) fun _ => echoCheck_judged op).andThen fun _ =>
      listBody_judged maxParams recCap
    split <;> exact unlatched

/-- All that can be latched and raised by the decode of a call. -/
theorem decodeCall_judged {s : State} (unlatched : s.err = none) : Judged (decodeCall s) := by
  unfold decodeCall
  split
  · exact decodeReply_judged _ _ unlatched
  · exact ⟨.inl unlatched, nofun, nofun⟩

/-- Settles O44: the state that raised says how the lines stand, and the exit path undoes that. -/
theorem errorExitPathByTheStateThatRaised : Obligations.ErrorExitPathByTheStateThatRaised := by
  refine ⟨fun s t e sound waiting raised => ?wait, fun s t e sound receiving raised => ?receive⟩
  case wait =>
    have unlatched : s.err = none := sound.errNone (by rcases waiting with fsm | fsm <;> rw [fsm] <;> rfl)
    obtain ⟨held, high⟩ : s.busHeld = true ∧ s.cs = .high :=
      waiting.elim (sound_bus_and_level sound) (sound_bus_and_level sound)
    exact ⟨high, held, resume_wait_error waiting unlatched raised⟩
  case receive =>
    obtain ⟨held, low⟩ : s.busHeld = true ∧ s.cs = .low := sound_bus_and_level sound receiving
    have unlatched : s.err = none := sound.errNone (by rw [receiving]; rfl)
    have judged := decodeCall_judged unlatched
    rw [raised] at judged
    obtain ⟨latched, -⟩ := judged
    exact ⟨low, held, resume_receiveFrame_error receiving raised, latched⟩

end Sys2Proof.Machine

/-! ### A whole call from AcquireBus, phase by phase (43_command_engine.md R184-R190) -/

namespace Sys2Proof.Machine

open Sys2Proof.Safety

variable {s : State}

/-- While another holder has the bus, one answer is used up and nothing else happens (20_memory.md R70). -/
theorem resume_acquire_hold (acquiring : s.fsm = .acquireBus) (busy : s.takeBus.1 = true) :
    resume s = s.takeBus.2 := by
  have rule : action s = s.takeBus.2 := by simp [action, acquiring, actAcquire, busy]
  have holds : (action s).fsm = .acquireBus := by rw [rule, s.takeBus_frame]; exact acquiring
  exact (run_hold 10 s (by simp [acquiring]) holds).trans rule

/-- On a free bus the call takes it and waits for READY. -/
theorem resume_acquire_free (acquiring : s.fsm = .acquireBus) (free : s.takeBus.1 = false) :
    resume s = resume ((acquireFree s).enter .awaitReadyTx) :=
  resume_of_action (by simp [acquiring]) (by simp [action, acquiring, actAcquire, free, acquireFree]) (by simp)

/-- The state in which the frame of a call is about to be sent. -/
def State.sending (s : State) (f : List Byte) : State :=
  { (select s).enter .sendFrame with tx := f, txIdx := 0 }

/-- The send of a call: select, every byte of the frame, deselect (43_command_engine.md R186-R188). -/
theorem resume_selectTx {f : List Byte} (selecting : s.fsm = .selectTx) (frame : requestFrame s = .ok f) :
    resume s = resume ((deselect ((sendBytes f (s.sending f)).enter .deselectTx)).enter .awaitReadyRx) := by
  have frame' : requestFrame ((select s).enter .sendFrame) = .ok f := frame
  have selects : action s = (select s).enter .sendFrame := by simp [action, selecting, actSelectTx]
  have sends : action ((select s).enter .sendFrame) = (sendBytes f (s.sending f)).enter .deselectTx := by
    simp only [action, State.enter_fsm, actSend, frame']
    rfl
  have deselects : action ((sendBytes f (s.sending f)).enter .deselectTx)
      = (deselect ((sendBytes f (s.sending f)).enter .deselectTx)).enter .awaitReadyRx := rfl
  rw [resume_of_action (by simp [selecting]) selects (by simp), resume_of_action (by simp) sends (by simp),
    resume_of_action (by simp) deselects (by simp)]

/-- The state in which the decode of a call begins. -/
def State.receiving (s : State) : State := { select s with rxCount := 0 }.enter .receiveFrame

theorem resume_selectRx (selecting : s.fsm = .selectRx) : resume s = resume s.receiving :=
  resume_of_action (by simp [selecting]) (by simp [action, selecting, actSelectRx, State.receiving])
    (by simp [State.receiving])

end Sys2Proof.Machine

/-! ### The operations on a device that is ready at once (43_command_engine.md R200-R206, R209) -/

namespace Sys2Proof.Machine

open Sys2Proof.Safety

/-- The state in which the decode of an offered exchange begins, for the timer value of the second wait. -/
def offeredReceiving (s : State) (x : Exchange) (timer : Nat) (rest : Env) : State :=
  { s with
    fsm := .receiveFrame, op := x.request.sel, args := latchArgs s.cfg x.request, busHeld := true, cs := .low,
    err := none, truncated := false, tx := x.frame, txIdx := x.frame.length, m := 0, timer := timer,
    slots := List.replicate (slotCount s.cfg x.request.sel (latchArgs s.cfg x.request)) [], rxCount := 0,
    trace := s.trace ++ [[.req x.request, .acq], readyAtOnce, [.clr .cs], sentEvents x.frame x.answers,
      deselectEvents s.cfg, readyAtOnce, [.clr .cs]].flatten,
    obs := s.obs ++ pathObs wayToReceive,
    env := { rest with abort := .low :: rest.abort, rx := s.env.rx } }

section offered
variable {s : State} {x : Exchange} {rest : Env} {b : Byte}

/-- Up to its decode, a call on an offered exchange is the same for every operation. -/
theorem call_offered (offered : Offered s x rest) (wire : x.request.sel = .cmd b)
    (pass : (known b && argsOk s.cfg b x.request) = true)
    (frame : encodeFrame b (params b (latchArgs s.cfg x.request)) = .ok x.frame) :
    ∃ timer, call x.request s = resume (offeredReceiving s x timer rest) := by
  obtain ⟨idle, -, bus, ready, abort, polls, tx, -, tick, timers, answers, -⟩ := offered
  have accepted : accept x.request s = (s.latched x.request).enter .acquireBus := by
    rw [accept_eq, wire]
    exact if_pos pass
  have taken := State.takeBus_cons ((s.latched x.request).enter .acquireBus) bus
  have acquired : acquireFree ((s.latched x.request).enter .acquireBus) = { (s.latched x.request).enter .acquireBus with
      busHeld := true, trace := s.trace ++ [.req x.request, .acq], env := { s.env with bus := rest.bus } } := by
    rw [acquireFree, taken]
    simp [State.latched, State.emit]
  rw [call, accepted, resume_acquire_free rfl (by rw [taken]), acquired,
    resume_wait_return rfl (.inl ⟨rfl, rfl⟩) (waitReady_at_once _ (by exact abort) (by exact ready)),
    resume_selectTx (f := x.frame) rfl (by simp only [requestFrame, State.enter_op, State.latched, wire]; exact frame),
    sendBytes_queued x.frame _ x.answers rest.tx answers (by exact tx),
    resume_wait_return rfl (.inr ⟨rfl, rfl⟩) (waitReady_at_once _ (by rfl) (by rfl)),
    resume_selectRx rfl]
  refine ⟨Config.timerNow (s.env.timers + 1), congrArg resume ?_⟩
  obtain ⟨bus', ready', abort', polls', tx', rx', tick', timers'⟩ := rest
  simp only at bus ready abort polls tx tick timers
  simp [offeredReceiving, State.receiving, State.sending, deselect_eq, select_eq, State.latched, State.emit, State.enter,
    pathObs, wayToReceive, idle, sentEvents, readyAtOnce, deselectEvents, polls, tick, timers, wire]

/-- What is left is the end of a call whose decode returned: the value is delivered. -/
theorem afterReceive_offered {timer : Nat} {d : Decoded}
    (value : d.value = callValue x.request.sel d.slots d.m d.truncated) :
    afterReceive { offeredReceiving s x timer rest with
      probe := 1, marker := false, n := d.n, m := d.m, truncated := d.truncated, slots := d.slots,
      rxCount := (x.reply ++ x.filler).length,
      trace := (offeredReceiving s x timer rest).trace ++ .abt .low :: receivedEvents (x.reply ++ x.filler),
      env := rest } = afterSuccess s x d timer rest := by
  simp [afterReceive, afterSuccess, offeredReceiving, successTrace, pathObs, successWay, wayToReceive, value]

theorem one_le_probeLimit {c : Cfg} (config : Cfg.inRange c = true) : 1 ≤ c.probeLimit := by
  simp only [Cfg.inRange, Bool.and_eq_true, decide_eq_true_eq] at config
  omega

variable (offered : Offered s x rest) (config : Cfg.inRange s.cfg = true) (wire : x.request.sel = .cmd b)
  (pass : (known b && argsOk s.cfg b x.request) = true)
  (frame : encodeFrame b (params b (latchArgs s.cfg x.request)) = .ok x.frame) (notSentinel : s.cfg.errCmd ≠ replyOp b)
include offered config wire pass frame notSentinel

/-- A call of a single value: the reply's payload is delivered (41_frame_codec.md R145). -/
theorem call_single_value {payload : List Byte} (notScan : b ≠ 0x27) (reply : x.reply = singleReply b payload)
    (short : payload.length ≤ 255) (version : b = 0x37 → payload.length ≤ (latchArgs s.cfg x.request).cap)
    (mac : b = 0x22 → payload.length = s.cfg.macLen) (status : b ≠ 0x37 → b ≠ 0x22 → payload.length = 1) :
    ∃ timer, call x.request s
      = afterSuccess s x ⟨1, 1, [payload], false, callValue (.cmd b) [payload] 1 false⟩ timer rest := by
  obtain ⟨timer, began⟩ := call_offered offered wire pass frame
  obtain ⟨cap, exact, asks, fits⟩ := decodeMode_single_of_fits (c := s.cfg) (a := latchArgs s.cfg x.request) notScan
    version mac status
  have decoded := decodeSingle_reply (s := offeredReceiving s x timer rest) (filler := x.filler) (rest := rest.rx)
    offered.noMarker (one_le_probeLimit config) rfl rfl notSentinel short fits
    (by rw [offered.filler, reply]; exact congrArg (fillerCount s.cfg) (Nat.zero_add _).symm)
    (by rw [← reply]; exact offered.rx)
  have returned := decodeCall_of_mode (s := offeredReceiving s x timer rest) wire asks decoded
  refine ⟨timer, ?_⟩
  rw [began, resume_receiveFrame_return rfl returned rfl, ← afterReceive_offered (by rw [wire]), reply]
  have one : slotCount s.cfg (.cmd b) (latchArgs s.cfg x.request) = 1 := if_neg notScan
  simp [offeredReceiving, wire, one]

/-- A call of the scan: the records within the clamp are delivered (42_demux.md R165, R166). -/
theorem call_scan {records : List (List Byte)} (scan : b = 0x27) (reply : x.reply = listReply b records)
    (count : records.length ≤ 255) (short : ∀ p ∈ records, p.length ≤ 255) :
    let cap := scanCap s.cfg (latchArgs s.cfg x.request)
    let m := min records.length cap
    let slots := records.take m ++ List.replicate (cap - m) []
    (∀ p ∈ records.take m, p.length ≤ s.cfg.ssidMax) →
    ∃ timer, call x.request s = afterSuccess s x ⟨BitVec.ofNat 8 records.length, m, slots,
      decide (m < records.length), callValue (.cmd b) slots m (decide (m < records.length))⟩ timer rest := by
  intro cap m slots fits
  obtain ⟨timer, began⟩ := call_offered offered wire pass frame
  have asks : decodeMode s.cfg b (latchArgs s.cfg x.request) = .list cap s.cfg.ssidMax := by
    rw [decodeMode, if_pos scan]
  have decoded := decodeList_reply (s := offeredReceiving s x timer rest) (filler := x.filler) (rest := rest.rx)
    offered.noMarker (one_le_probeLimit config) rfl rfl notSentinel count short fits
    (by rw [offered.filler, reply]; exact congrArg (fillerCount s.cfg) (Nat.zero_add _).symm)
    (by rw [← reply]; exact offered.rx)
  have returned := decodeCall_of_mode (s := offeredReceiving s x timer rest) wire asks decoded
  refine ⟨timer, ?_⟩
  rw [began, resume_receiveFrame_return rfl returned rfl, ← afterReceive_offered (by rw [wire]), reply]
  simp [offeredReceiving, wire, slotCount, scan, slots, m, cap]

end offered

/-- Under a finite bound, or none, the check is that of the operands. -/
theorem argsOk_of_boundFinite {t : Option Bound} (finite : boundFinite t = true) (c : Cfg) (b : Byte) (sel : Selector)
    (a : OpArgs) : argsOk c b ⟨sel, a, t⟩ = operandsOk c b a := by
  match t with
  | none => rw [argsOk_of_default, argsOk_of_micros]
  | some (.micros us) => exact argsOk_of_micros ..
  | some .unbounded => cases finite

/-- An instruction that is a request presented in Idle is that request's whole call. -/
theorem exec_eq_call {s : State} {i : Instr} {r r' : Request} (idle : s.fsm = .idle)
    (presents : exec i s = .next (present r' s)) (request : r = r') : exec i s = .next (call r s) := by
  rw [presents, present, if_pos idle, request]

/-- Settles O47: a call of a single value of one byte. -/
theorem statusOperationsReturnTheStatusByte : Obligations.StatusOperationsReturnTheStatusByte := by
  intro s x rest t op v i row config finite notSentinel request frame reply offered
  have executed : exec i s = .next (call x.request s) := by
    obtain ⟨rfl, rfl⟩ | ⟨rfl, rfl⟩ | ⟨rfl, rfl⟩ := row <;> exact exec_eq_call offered.idle rfl request
  have place : known op = true ∧ (∀ a, operandsOk s.cfg op a = decide (a = .none)) ∧ op ≠ 0x37 ∧ op ≠ 0x22 ∧ op ≠ 0x27
      ∧ op ≠ 0x11 ∧ requestOp op = op ∧ callValue (.cmd op) [[v]] 1 false = .status v := by
    obtain ⟨-, rfl⟩ | ⟨-, rfl⟩ | ⟨-, rfl⟩ := row <;>
      exact ⟨by decide, operandsOk_plain (by decide) s.cfg, by decide, by decide, by decide, by decide, by decide, rfl⟩
  obtain ⟨listed, operands, notVersion, notMac, notScan, notConnect, head, value⟩ := place
  obtain ⟨timer, completed⟩ := call_single_value (b := op) (payload := [v]) offered config (by rw [request])
    (by rw [request, listed, argsOk_of_boundFinite finite, operands]; rfl)
    (by
      rw [params, if_neg notConnect, zeroParameterRequestIsFourBytes, frame]
      exact congrArg (fun b => Except.ok [0xE0, b, 0x00, 0xEE]) head)
    notSentinel notScan reply (by simp) (fun h => absurd h notVersion) (fun h => absurd h notMac) (fun _ _ => rfl)
  exact ⟨timer, by rw [executed, completed, value]⟩

/-- Settles O48: a call of a single value without an exact width. -/
theorem versionOperationReturnsTheVersion : Obligations.VersionOperationReturnsTheVersion := by
  intro s x rest t cap version config finite notSentinel capFits fits request frame reply offered
  have executed : exec (.getfwversion cap t) s = .next (call x.request s) := exec_eq_call offered.idle rfl request
  have ok : argsOk s.cfg 0x37 x.request = true := by
    rw [request, argsOk_of_boundFinite finite]
    exact decide_eq_true capFits
  obtain ⟨timer, completed⟩ := call_single_value (b := 0x37) (payload := version) offered config (by rw [request])
    (by rw [ok]; decide) (by rw [frame]; exact zeroParameterRequestIsFourBytes 0x37) notSentinel (by decide) reply
    (by omega) (fun _ => by rw [request]; exact fits) (fun h => absurd h (by decide)) (fun h => absurd rfl h)
  exact ⟨timer, by rw [executed, completed]; rfl⟩

/-- Settles O49: a call of a single value of an exact width. -/
theorem macOperationReturnsTheAddress : Obligations.MacOperationReturnsTheAddress := by
  intro s x rest t mac config finite notSentinel width request frame reply offered
  have executed : exec (.getmacaddr t) s = .next (call x.request s) := exec_eq_call offered.idle rfl request
  have ok : argsOk s.cfg 0x22 x.request = true := by
    rw [request, argsOk_of_boundFinite finite]
    rfl
  have short : mac.length ≤ 255 := by
    simp only [Cfg.inRange, Bool.and_eq_true, decide_eq_true_eq] at config
    omega
  obtain ⟨timer, completed⟩ := call_single_value (b := 0x22) (payload := mac) offered config (by rw [request])
    (by rw [ok]; decide) (by rw [frame]; exact zeroParameterRequestIsFourBytes 0x22) notSentinel (by decide) reply
    short (fun h => absurd h (by decide)) (fun _ => width) (fun _ h => absurd rfl h)
  exact ⟨timer, by rw [executed, completed]; rfl⟩

/-- Settles O50: the call of the list, whose records beyond the clamp are drained. -/
theorem scanOperationReturnsTheClampedRecords : Obligations.ScanOperationReturnsTheClampedRecords := by
  intro s x rest t maxRecords records config finite notSentinel maxFits count short cap m fits request frame reply
    offered
  have executed : exec (.scannetworks maxRecords t) s = .next (call x.request s) :=
    exec_eq_call offered.idle rfl request
  have ok : argsOk s.cfg 0x27 x.request = true := by
    rw [request, argsOk_of_boundFinite finite]
    exact decide_eq_true maxFits
  have clamp : scanCap s.cfg (latchArgs s.cfg x.request) = cap := by
    rw [request]
    rfl
  have completed := call_scan (b := 0x27) (records := records) offered config (by rw [request])
    (by rw [ok]; decide) (by rw [frame]; exact zeroParameterRequestIsFourBytes 0x27) notSentinel rfl reply count short
  simp only [clamp] at completed
  obtain ⟨timer, completed⟩ := completed fits
  have stored : (records.take m ++ List.replicate (cap - m) []).take m = records.take m := by
    have within : (records.take m).length = m := by simp [m]
    rw [List.take_left' within]
  refine ⟨timer, ?_⟩
  have value (cut : Bool) : callValue (.cmd 0x27) (records.take m ++ List.replicate (cap - m) []) m cut
      = .scan (records.take m) m cut := congrArg (Value.scan · m cut) stored
  rw [executed, completed]
  exact congrArg (fun v => Host.Outcome.next (afterSuccess s x ⟨_, m, _, _, v⟩ timer rest)) (value _)

/-- Settles O51: a call of a single value of one byte, whose request carries the two parameters. -/
theorem connectOperationSendsTheCredentials : Obligations.ConnectOperationSendsTheCredentials := by
  intro s x rest t ssid pass v config finite notSentinel ssidFits passFits request frame reply offered
  have executed : exec (.connect ssid pass t) s = .next (call x.request s) := exec_eq_call offered.idle rfl request
  have ok : argsOk s.cfg 0x11 x.request = true := by
    rw [request, argsOk_of_boundFinite finite, operandsOk_connect config]
    exact decide_eq_true ⟨ssidFits, passFits⟩
  have encoded : encodeFrame 0x11 (params 0x11 (latchArgs s.cfg x.request)) = .ok x.frame := by
    have within := encodable_params_of_argsOk ok
    have parameters : params 0x11 (latchArgs s.cfg x.request) = [ssid, pass] := by rw [request]; rfl
    rw [parameters] at within ⊢
    rw [encodeFrame_of_encodable within, frame, padFrame, frameBody_length]
    have length : 4 + [ssid, pass].length + ([ssid, pass].map List.length).sum = 6 + ssid.length + pass.length := by
      simp
      omega
    rw [length]
    simp [frameBody, paramField, padCount, requestOp, Config.startMarker, Config.endMarker, Config.fillByte,
      Config.cmdMask]
  obtain ⟨timer, completed⟩ := call_single_value (b := 0x11) (payload := [v]) offered config (by rw [request])
    (by rw [ok]; decide) encoded notSentinel (by decide) reply (by simp) (fun h => absurd h (by decide))
    (fun h => absurd h (by decide)) (fun _ _ => rfl)
  exact ⟨timer, by rw [executed, completed]; rfl⟩

end Sys2Proof.Machine

/-! ### The ways of a call through the engine's states (43_command_engine.md R181) -/

namespace Sys2Proof.Machine

open Sys2Proof.Safety

variable {s : State}

/-- How a call goes on from a ready wait: to the select behind it, or along the error exit of a wait. -/
theorem resume_wait {f g : Fsm} (waiting : s.fsm = f)
    (place : f = .awaitReadyTx ∧ g = .selectTx ∨ f = .awaitReadyRx ∧ g = .selectRx) (unlatched : s.err = none) :
    (∃ t, WaitFrame s t ∧ resume s = resume (t.enter g))
      ∨ ∃ t e, WaitFrame s t ∧ (e = .handshakeTimeout ∨ e = .cancelled) ∧ resume s = afterWaitError t e := by
  obtain ⟨frame, result⟩ := waitReady_spec s
  obtain returned | timeout | cancelled := result
  · exact .inl ⟨_, frame, resume_wait_return waiting place (Prod.ext rfl returned)⟩
  all_goals
    have waits : s.fsm = .awaitReadyTx ∨ s.fsm = .awaitReadyRx := by
      rw [waiting]
      exact place.imp And.left And.left
  · exact .inr ⟨_, _, frame, .inl rfl, resume_wait_error waits unlatched (Prod.ext rfl timeout)⟩
  · exact .inr ⟨_, _, frame, .inr rfl, resume_wait_error waits unlatched (Prod.ext rfl cancelled)⟩

/-- How a call goes on from ReceiveFrame: with its value, or along the error exit of a decode. -/
theorem resume_receive (receiving : s.fsm = .receiveFrame) (unlatched : s.err = none) :
    (∃ t, Keeps s t ∧ t.err = none ∧ resume s = afterReceive t)
      ∨ ∃ t e, Keeps s t ∧ isDecodeError e ∧ resume s = afterReceiveError t e := by
  have keeps := decodeCall_keeps s
  have judged := decodeCall_judged unlatched
  unfold Judged at judged
  split at judged
  · rename_i returned
    exact .inl ⟨_, keeps, judged, resume_receiveFrame_return receiving (Prod.ext rfl returned) judged⟩
  · rename_i e raised
    obtain ⟨latched, decodes⟩ := judged
    have reported : (decodeCall s).1.err.getD e = e := by rcases latched with h | h <;> rw [h] <;> rfl
    have ended := resume_receiveFrame_error receiving (Prod.ext rfl raised)
    rw [reported] at ended
    exact .inr ⟨_, e, keeps, decodes, ended⟩

/-- A way's events are those up to a state on it, and those from there on. -/
theorem pathObs_append (before : List (Fsm × Option ErrorKind)) (a : Fsm × Option ErrorKind)
    (behind : List (Fsm × Option ErrorKind)) :
    pathObs (before ++ a :: behind) = pathObs (before ++ [a]) ++ pathObs (a :: behind) := by
  induction before with
  | nil => rfl
  | cons b before ih =>
    cases before with
    | nil => cases behind <;> rfl
    | cons c before => exact congrArg (_ :: ·) ih

/-- An accepted call, begun in `s`, is on its way: it has come through the states `before` and stands in `f`, no error
latched. -/
structure OnWay (s : State) (before : List (Fsm × Option ErrorKind)) (f : Fsm) (t : State) : Prop where
  place : t.fsm = f
  unlatched : t.err = none
  accepted : acceptedCall t
  obs : t.obs = s.obs ++ pathObs (before ++ [(f, none)])

section onWay
variable {t : State} {before : List (Fsm × Option ErrorKind)}

/-- A ready wait leads on, or along its error exit to the end. -/
theorem OnWay.wait {f g : Fsm} (h : OnWay s before f t)
    (place : f = .awaitReadyTx ∧ g = .selectTx ∨ f = .awaitReadyRx ∧ g = .selectRx) :
    (∃ u, OnWay s (before ++ [(f, none)]) g u ∧ resume t = resume u)
      ∨ ∃ e, (e = .handshakeTimeout ∨ e = .cancelled)
        ∧ (resume t).obs = s.obs ++ pathObs (before ++ (f, none) :: waitErrorEnd e) := by
  obtain ⟨u, waited, goes⟩ | ⟨u, e, waited, wait, ends⟩ := resume_wait h.place place h.unlatched
  all_goals
    have keeps := waited.emits.keeps
    have fsm : u.fsm = f := keeps.fsm.trans h.place
    have err : u.err = none := waited.err.trans h.unlatched
    have obs := keeps.obs.trans h.obs
  · refine .inl ⟨u.enter g, ⟨rfl, err, acceptedCall_congr (s := t) keeps.op keeps.args h.accepted, ?_⟩, goes⟩
    rw [State.enter_obs, obs, fsm, err, List.append_assoc s.obs, List.append_assoc before, List.singleton_append,
      pathObs_append before (f, none) [(g, none)]]
    rfl
  · refine .inr ⟨e, wait, ?_⟩
    rw [ends, pathObs_append, ← List.append_assoc, ← obs, ← fsm]
    rfl

/-- The send leads to the wait for the reply (43_command_engine.md R186-R188). -/
theorem OnWay.send (h : OnWay s before .selectTx t) :
    ∃ u, OnWay s (before ++ [(.selectTx, none), (.sendFrame, none), (.deselectTx, none)]) .awaitReadyRx u
      ∧ resume t = resume u := by
  obtain ⟨b, f, -, -, frame⟩ := requestFrame_of_acceptedCall h.accepted
  obtain ⟨sent, -⟩ := sendBytes_spec f (t.sending f)
  have keeps := sent.emits.keeps
  have err : (sendBytes f (t.sending f)).err = none := sent.err.trans h.unlatched
  have fsm : (sendBytes f (t.sending f)).fsm = .sendFrame := keeps.fsm
  have obs : (sendBytes f (t.sending f)).obs = t.obs ++ [⟨t.fsm, .sendFrame, t.err⟩] := keeps.obs
  refine ⟨(deselect ((sendBytes f (t.sending f)).enter .deselectTx)).enter .awaitReadyRx,
    ⟨rfl, err, acceptedCall_congr (s := t) keeps.op keeps.args h.accepted, ?_⟩, resume_selectTx h.place frame⟩
  rw [List.append_assoc, List.cons_append, pathObs_append, ← List.append_assoc, ← h.obs]
  simp [deselect_eq, obs, fsm, err, pathObs, h.place, h.unlatched]

theorem OnWay.select (h : OnWay s before .selectRx t) :
    OnWay s (before ++ [(.selectRx, none)]) .receiveFrame t.receiving := by
  refine ⟨rfl, h.unlatched, acceptedCall_congr (s := t) rfl rfl h.accepted, ?_⟩
  rw [List.append_assoc, List.singleton_append, pathObs_append, ← List.append_assoc, ← h.obs]
  simp [State.receiving, select_eq, pathObs, h.place, h.unlatched]

/-- A decode leads to the end of the call, along its error exit or with the value. -/
theorem OnWay.receive (h : OnWay s before .receiveFrame t) :
    (resume t).obs = s.obs ++ pathObs (before ++ [(.receiveFrame, none), (.deselectRx, none), (.releaseBus, none),
        (.done, none), (.idle, none)])
      ∨ ∃ e, isDecodeError e
        ∧ (resume t).obs = s.obs ++ pathObs (before ++ (.receiveFrame, none) :: receiveErrorEnd e) := by
  obtain ⟨u, keeps, -, ends⟩ | ⟨u, e, keeps, decodes, ends⟩ := resume_receive h.place h.unlatched
  all_goals have obs := keeps.obs.trans h.obs
  · refine .inl ?_
    rw [ends, pathObs_append, ← List.append_assoc, ← obs]
    rfl
  · refine .inr ⟨e, decodes, ?_⟩
    rw [ends, pathObs_append, ← List.append_assoc, ← obs]
    rfl

end onWay

/-- On a free bus an accepted call sets out from AcquireBus. -/
theorem onWay_of_free (acquiring : s.fsm = .acquireBus) (unlatched : s.err = none) (accepted : acceptedCall s) :
    OnWay s [(.acquireBus, none)] .awaitReadyTx ((acquireFree s).enter .awaitReadyTx) := by
  have frame : acquireFree s = { s with busHeld := true, trace := s.trace ++ [.acq], env := s.takeBus.2.env } := by
    rw [acquireFree, s.takeBus_frame]
    rfl
  rw [frame]
  exact ⟨rfl, unlatched, acceptedCall_congr (s := s) rfl rfl accepted, by simp [pathObs, acquiring, unlatched]⟩

/-- The way of an accepted call from AcquireBus, where no error is latched. -/
theorem resume_way (acquiring : s.fsm = .acquireBus) (unlatched : s.err = none) (accepted : acceptedCall s) :
    ∃ way, (resume s).obs = s.obs ++ pathObs way.tail ∧ isWireWay way := by
  cases free : s.takeBus.1 with
  | true =>
    refine ⟨[(.idle, none), (.acquireBus, none)], ?_, .inl rfl⟩
    rw [resume_acquire_hold acquiring free, s.takeBus_frame]
    simp [pathObs]
  | false =>
    rw [resume_acquire_free acquiring free]
    have acquired := onWay_of_free acquiring unlatched accepted
    obtain ⟨t, ready, goes⟩ | ⟨e, wait, ends⟩ := acquired.wait (.inl ⟨rfl, rfl⟩)
    case inr => exact ⟨wayToReceive.take 3 ++ waitErrorEnd e, ends, .inr (.inl ⟨e, rfl, wait⟩)⟩
    obtain ⟨u, sent, goes'⟩ := ready.send
    rw [goes, goes']
    obtain ⟨v, ready, goes⟩ | ⟨e, wait, ends⟩ := sent.wait (.inr ⟨rfl, rfl⟩)
    case inr => exact ⟨wayToReceive.take 7 ++ waitErrorEnd e, ends, .inr (.inr (.inl ⟨e, rfl, wait⟩))⟩
    rw [goes, resume_selectRx ready.place]
    obtain ends | ⟨e, decodes, ends⟩ := ready.select.receive
    · exact ⟨successWay, ends, .inr (.inr (.inr (.inr rfl)))⟩
    · exact ⟨wayToReceive ++ receiveErrorEnd e, ends, .inr (.inr (.inr (.inl ⟨e, rfl, decodes⟩)))⟩

/-- Every way of a wire operation begins in Idle with the change to AcquireBus. -/
theorem isWireWay_begins {way : List (Fsm × Option ErrorKind)} (h : isWireWay way) :
    pathObs way = ⟨.idle, .acquireBus, none⟩ :: pathObs way.tail := by
  obtain rfl | ⟨e, rfl, -⟩ | ⟨e, rfl, -⟩ | ⟨e, rfl, -⟩ | rfl := h <;> rfl

/-- Settles O33: the accept chooses between a refusal, the reset sequence and a wire operation's way, and the phases of
that way have two ends each. -/
theorem everyCallTakesAWayOfTheStateTable : Obligations.EveryCallTakesAWayOfTheStateTable := by
  refine ⟨fun r s idle => ?_, fun s => resume_way⟩
  cases wire : r.sel with
  | resetSeq =>
    have accepted : accept r s = (s.latched r).enter .resetSeq := by rw [accept_eq, wire]
    refine ⟨_, ?_, .inr (.inl rfl)⟩
    rw [call, accepted, resume_resetSeq rfl, actResetSeq, resetSequence_eq]
    simp [State.latched, State.enter, State.emit, idle, pathObs]
  | cmd b =>
    cases check : known b && argsOk s.cfg b r with
    | false =>
      refine ⟨_, ?_, .inl rfl⟩
      rw [call_of_fail idle wire check]
    | true =>
      have accepted : accept r s = (s.latched r).enter .acquireBus := by
        rw [accept_eq, wire]
        exact if_pos check
      obtain ⟨way, obs, wireWay⟩ := resume_way (s := (s.latched r).enter .acquireBus) rfl rfl
        (acceptedCall_of_pass wire rfl check)
      refine ⟨way, ?_, .inr (.inr wireWay)⟩
      rw [call, accepted, obs, isWireWay_begins wireWay]
      simp [State.latched, State.enter, State.emit, idle]

end Sys2Proof.Machine

/-! ### The bus is taken and released once (43_command_engine.md section 1, 60_exceptions.md R228) -/

namespace Sys2Proof.Machine

open Sys2Proof.Safety

/-- Neither `ACQ` nor `REL` nor `RESP`. -/
def isInside (e : Event) : Bool := !(isAcq e || isRel e || isResp e)

theorem isInside_of_phase {e : Event} (phase : (isWaitEvent e || isSendEvent e || isDecodeEvent e) = true) :
    isInside e = true := by
  cases e with
  | acq | rel | resp => cases phase
  | _ => rfl

/-- Between the two states the bus stays as it is, and no `ACQ`, `REL` or `RESP` happens. -/
structure KeepsBus (s t : State) : Prop where
  busHeld : t.busHeld = s.busHeld
  grows : ∃ l, t.trace = s.trace ++ l ∧ ∀ e ∈ l, isInside e = true

theorem Emits.keepsBus {P : Event → Prop} {s t u : State} (h : Emits P s t) (inside : ∀ e, P e → isInside e = true)
    (busHeld : u.busHeld = t.busHeld) (trace : u.trace = t.trace) : KeepsBus s u := by
  obtain ⟨l, grown, all⟩ := h.grows
  exact ⟨busHeld.trans h.keeps.busHeld, l, trace.trans grown, fun e mem => inside e (all e mem)⟩

@[simp] theorem settle_busHeld (next : Fsm) (r : Ended) : (settle next r).busHeld = r.1.busHeld := by
  unfold settle
  split
  · rfl
  · rw [State.takeError_frame]

theorem settle_waitReady_keepsBus (next : Fsm) (s : State) : KeepsBus s (settle next (waitReady s)) :=
  (waitReady_spec s).1.emits.keepsBus (fun _ event => isInside_of_phase (by simp [event])) (settle_busHeld next _)
    (settle_trace next _)

theorem actSend_keepsBus (s : State) : KeepsBus s (actSend s) := by
  unfold actSend
  split
  · rename_i f _
    have sent := (sendBytes_spec f { s with tx := f, txIdx := 0 }).1.emits
    obtain ⟨busHeld, grows⟩ := sent.keepsBus (u := sendBytes f { s with tx := f, txIdx := 0 })
      (fun _ event => isInside_of_phase (by simp [event])) rfl rfl
    exact ⟨busHeld, grows⟩
  · rw [State.takeError_frame]
    exact ⟨rfl, [], by simp, by simp⟩

theorem actReceive_keepsBus (s : State) : KeepsBus s (actReceive s) := by
  have decoded : Emits (isDecodeEvent · = true) s (decodeCall s).1 := by
    unfold decodeCall
    split
    · exact (decodeReply_frame _ _ s).emits
    · exact .refl _ s
  exact decoded.keepsBus (fun _ event => isInside_of_phase (by simp [event])) (settle_busHeld _ _) (settle_trace _ _)

theorem deselect_keepsBus (s : State) : KeepsBus s (deselect s) := by
  rw [deselect_eq]
  exact ⟨rfl, deselectEvents s.cfg, rfl, by simp [deselectEvents, isInside, isAcq, isRel, isResp]⟩

/-- While the bus is held, only ReleaseBus touches it. -/
theorem action_keepsBus {s : State} (holds : s.fsm.holdsBus = true) (other : s.fsm ≠ .releaseBus) :
    KeepsBus s (action s) := by
  unfold action
  cases fsm : s.fsm with
  | awaitReadyTx => exact settle_waitReady_keepsBus .selectTx s
  | selectTx | selectRx => exact ⟨rfl, [.clr .cs], rfl, by decide⟩
  | sendFrame => exact actSend_keepsBus s
  | deselectTx | deselectRx => exact ⟨(deselect_keepsBus s).busHeld, (deselect_keepsBus s).grows⟩
  | awaitReadyRx => exact settle_waitReady_keepsBus .selectRx s
  | receiveFrame => exact actReceive_keepsBus s
  | releaseBus => exact absurd fsm other
  | idle | acquireBus | done | failed | resetSeq => simp [fsm, Fsm.holdsBus] at holds

theorem holdsBus_of_mem_successors {f g : Fsm} (holds : f.holdsBus = true) (other : f ≠ .releaseBus)
    (follows : g ∈ successors f) : g.holdsBus = true := by
  have held : f.holdsBus = true → f ≠ .releaseBus → ∀ g ∈ successors f, g.holdsBus = true := by cases f <;> decide
  exact held holds other g follows

/-- Where a call stands that began in the AcquireBus state `s`: it waits for the bus, holds it, has released it, or has
delivered its result. -/
inductive BusRun (s : State) : State → Prop where
  | waits {t : State} (fsm : t.fsm = .acquireBus) (free : t.busHeld = false) (trace : t.trace = s.trace) : BusRun s t
  | holds {t : State} (fsm : t.fsm.holdsBus = true) (held : t.busHeld = true) {mid : List Event}
      (trace : t.trace = s.trace ++ .acq :: mid) (inside : ∀ e ∈ mid, isInside e = true) : BusRun s t
  | released {t : State} (fsm : t.fsm = .done ∨ t.fsm = .failed ∧ t.err ≠ none) (free : t.busHeld = false)
      {mid : List Event} (trace : t.trace = s.trace ++ .acq :: (mid ++ [.rel])) (inside : ∀ e ∈ mid, isInside e = true) :
      BusRun s t
  | ended {t : State} (fsm : t.fsm = .idle) (free : t.busHeld = false) {mid : List Event} {v : Result}
      (trace : t.trace = s.trace ++ .acq :: (mid ++ [.rel, .resp v])) (inside : ∀ e ∈ mid, isInside e = true) :
      BusRun s t

theorem BusRun.acquires {s t : State} (fsm : t.fsm = .acquireBus) (free : t.busHeld = false)
    (trace : t.trace = s.trace) : BusRun s (action t) := by
  have rule : action t = actAcquire t := by simp [action, fsm]
  rw [rule, actAcquire, t.takeBus_frame]
  split
  · exact .waits fsm free trace
  · exact .holds rfl rfl (mid := []) (by simp [State.emit, trace]) (by simp)

theorem BusRun.releases {s t : State} (fsm : t.fsm = .releaseBus) {mid : List Event}
    (trace : t.trace = s.trace ++ .acq :: mid) (inside : ∀ e ∈ mid, isInside e = true) : BusRun s (action t) := by
  have rule : action t = actRelease t := by simp [action, fsm]
  rw [rule]
  refine .released ?_ rfl (mid := mid) (by simp [actRelease, trace]) inside
  cases err : t.err with
  | none => exact .inl (by simp [actRelease, err, outcomeState])
  | some e => exact .inr ⟨by simp [actRelease, err, outcomeState], by simp [actRelease, err]⟩

theorem BusRun.delivers {s t : State} (fsm : t.fsm = .done ∨ t.fsm = .failed ∧ t.err ≠ none)
    (free : t.busHeld = false) {mid : List Event} (trace : t.trace = s.trace ++ .acq :: (mid ++ [.rel]))
    (inside : ∀ e ∈ mid, isInside e = true) : BusRun s (action t) := by
  obtain done | ⟨failed, latched⟩ := fsm
  · have rule : action t = actDone t := by simp [action, done]
    rw [rule]
    exact .ended rfl free (by simp [actDone, trace]; rfl) inside
  · obtain ⟨e, err⟩ := Option.ne_none_iff_exists'.1 latched
    have rule : action t = (t.emit (.resp (.err e))).enter .idle := by
      simp [action, failed, State.returnFromError, err]
    rw [rule]
    exact .ended rfl free (by simp [trace]; rfl) inside

theorem BusRun.after_action {s t : State} (h : BusRun s t) (active : t.fsm ≠ .idle) : BusRun s (action t) := by
  cases h with
  | waits fsm free trace => exact .acquires fsm free trace
  | holds fsm held trace inside =>
    rename_i mid
    by_cases releasing : t.fsm = .releaseBus
    · exact .releases releasing trace inside
    · obtain ⟨busHeld, l, grown, more⟩ := action_keepsBus fsm releasing
      refine .holds (holdsBus_of_mem_successors fsm releasing (action_follows t)) (busHeld.trans held)
        (mid := mid ++ l) (by rw [grown, trace]; simp) fun e mem => ?_
      exact (List.mem_append.1 mem).elim (inside e) (more e)
  | released fsm free trace inside => exact .delivers fsm free trace inside
  | ended fsm => exact absurd fsm active

theorem resume_busRun {s : State} (acquiring : s.fsm = .acquireBus) (free : s.busHeld = false) :
    BusRun s (resume s) :=
  run_keeps (P := BusRun s) (fun _ active h => h.after_action active) callLength s (.waits acquiring free rfl)

theorem resume_level {s : State} (level : s.cs = s.fsm.csLevel) : (resume s).cs = (resume s).fsm.csLevel :=
  run_keeps (P := fun t => t.cs = t.fsm.csLevel) (fun _ _ => action_level) callLength s level

theorem counts_inside {mid : List Event} (inside : ∀ e ∈ mid, isInside e = true) :
    countEvents isAcq mid = 0 ∧ countEvents isRel mid = 0 ∧ countEvents isResp mid = 0 := by
  have outside (e : Event) (mem : e ∈ mid) : isAcq e = false ∧ isRel e = false ∧ isResp e = false := by
    simpa [isInside, and_assoc] using inside e mem
  exact ⟨countEvents_eq_zero fun e mem => (outside e mem).1, countEvents_eq_zero fun e mem => (outside e mem).2.1,
    countEvents_eq_zero fun e mem => (outside e mem).2.2⟩

/-- A call from AcquireBus: it holds there, or takes the bus first, releases it last but one, and ends. -/
theorem resume_releases_once {s : State} (acquiring : s.fsm = .acquireBus) (free : s.busHeld = false)
    (high : s.cs = .high) :
    (resume s).busHeld = false ∧ (resume s).cs = .high
    ∧ (((resume s).fsm = .acquireBus ∧ (resume s).trace = s.trace)
      ∨ ((resume s).fsm = .idle ∧ ∃ (mid : List Event) (v : Result),
          countEvents isAcq mid = 0 ∧ countEvents isRel mid = 0 ∧ countEvents isResp mid = 0
          ∧ (resume s).trace = s.trace ++ [[Event.acq], mid, [Event.rel, Event.resp v]].flatten)) := by
  have level := resume_level (s := s) (by rw [high, acquiring]; rfl)
  have ends := run_ends callLength s s.fsm.rank_le_callLength
  change (resume s).fsm = .idle ∨ (resume s).fsm = .acquireBus at ends
  cases resume_busRun acquiring free with
  | waits fsm free trace => exact ⟨free, by rw [level, fsm]; rfl, .inl ⟨fsm, trace⟩⟩
  | ended fsm free trace inside =>
    rename_i mid v
    obtain ⟨acqs, rels, resps⟩ := counts_inside inside
    exact ⟨free, by rw [level, fsm]; rfl, .inr ⟨fsm, mid, v, acqs, rels, resps, by simp [trace]⟩⟩
  | holds fsm => rcases ends with h | h <;> rw [h] at fsm <;> cases fsm
  | released fsm => rcases ends with h | h <;> simp [h] at fsm

/-- Settles O34: a request that passes is a call from AcquireBus, and any other does not come near the bus. -/
theorem busIsReleasedExactlyOnceOnEveryPath : Obligations.BusIsReleasedExactlyOnceOnEveryPath := by
  refine ⟨fun r s idle free high => ?_, fun s => resume_releases_once⟩
  cases wire : r.sel with
  | resetSeq =>
    have accepted : accept r s = (s.latched r).enter .resetSeq := by rw [accept_eq, wire]
    have ended : call r s = actResetSeq ((s.latched r).enter .resetSeq) := by
      rw [call, accepted]
      exact resume_resetSeq rfl
    rw [ended, actResetSeq, resetSequence_eq]
    refine ⟨free, rfl, .inr ⟨rfl, resetTrace s.cfg, .ok .unit, rfl, rfl, rfl, .inl ⟨?_, rfl⟩⟩⟩
    simp [State.latched]
  | cmd b =>
    cases check : known b && argsOk s.cfg b r with
    | false =>
      rw [call_of_fail idle wire check]
      exact ⟨free, high, .inr ⟨idle, [], _, rfl, rfl, rfl, .inl ⟨rfl, rfl⟩⟩⟩
    | true =>
      have accepted : accept r s = (s.latched r).enter .acquireBus := by
        rw [accept_eq, wire]
        exact if_pos check
      obtain ⟨free, high, held | ⟨fsm, mid, v, acqs, rels, resps, trace⟩⟩ :=
        resume_releases_once (s := (s.latched r).enter .acquireBus) rfl free high
      · rw [call, accepted]
        exact ⟨free, high, .inl held⟩
      · rw [call, accepted]
        refine ⟨free, high, .inr ⟨fsm, mid, v, acqs, rels, resps, .inr ?_⟩⟩
        rw [trace]
        simp [State.latched]

end Sys2Proof.Machine

/-! ### What a ready wait and a send look at: the environment, and a wait at the bound (40_handshake.md R114) -/

namespace Sys2Proof.Machine

variable {s t : State}

/-- Run from `s` and from `t`, `k` uses the same answers, makes the same events and ends alike, and writes nothing
else. -/
def ActsAlike (k : State → Ended) (s t : State) : Prop :=
  ∃ env l r, k s = ({ s with env := env, trace := s.trace ++ l }, r)
    ∧ k t = ({ t with env := env, trace := t.trace ++ l }, r)

theorem State.sampleAbort_alike (same : t.env = s.env) : t.sampleAbort = (s.sampleAbort.1,
    { t with env := s.sampleAbort.2.env, trace := t.trace ++ [.abt s.sampleAbort.1] }) := by
  cases queued : s.env.abort <;>
    simp [State.sampleAbort, State.takeAbort, same, queued, State.emit, State.tickOn]

theorem State.readReady_alike (same : t.env = s.env) : t.readReady = (s.readReady.1,
    { t with env := s.readReady.2.env, trace := t.trace ++ [.read .ready s.readReady.1] }) := by
  cases queued : s.env.ready <;>
    simp [State.readReady, State.takeReady, same, queued, State.emit, State.tickOn]

theorem State.takePolls_alike (same : t.env = s.env) (timer : t.timer = s.timer) (args : t.args = s.args) :
    t.takePolls = (s.takePolls.1, { t with env := s.takePolls.2.env }) := by
  cases queued : s.env.polls <;> simp [State.takePolls, same, timer, args, queued, State.tickOn]

/-- What acts alike behind some answers and events acts alike from before them. -/
theorem ActsAlike.behind {k : State → Ended} {env : Env} {l : List Event}
    (h : ActsAlike k { s with env := env, trace := s.trace ++ l } { t with env := env, trace := t.trace ++ l }) :
    ∃ env' l' r, k { s with env := env, trace := s.trace ++ l } = ({ s with env := env', trace := s.trace ++ l' }, r)
      ∧ k { t with env := env, trace := t.trace ++ l } = ({ t with env := env', trace := t.trace ++ l' }, r) := by
  obtain ⟨env', l', r, fromS, fromT⟩ := h
  exact ⟨env', l ++ l', r, by rw [fromS]; simp, by rw [fromT]; simp⟩

theorem poll_alike {k : State → Ended} (same : t.env = s.env)
    (rest : ∀ env l,
      ActsAlike k { s with env := env, trace := s.trace ++ l } { t with env := env, trace := t.trace ++ l }) :
    ActsAlike (poll k) s t := by
  have sampled := State.sampleAbort_alike same
  have sampled' := State.sampleAbort_alike (s := s) (t := s) rfl
  unfold ActsAlike poll
  rw [sampled, sampled']
  dsimp only
  split
  · exact ⟨_, _, _, rfl, rfl⟩
  · have read := State.readReady_alike
      (s := { s with env := s.sampleAbort.2.env, trace := s.trace ++ [.abt s.sampleAbort.1] })
      (t := { t with env := s.sampleAbort.2.env, trace := t.trace ++ [.abt s.sampleAbort.1] }) rfl
    have read' := State.readReady_alike
      (s := { s with env := s.sampleAbort.2.env, trace := s.trace ++ [.abt s.sampleAbort.1] }) rfl
    rw [read, read']
    dsimp only
    rw [List.append_assoc, List.append_assoc]
    split
    · exact ⟨_, _, _, rfl, rfl⟩
    · exact (rest _ _).behind

theorem timerTests_alike (j : Nat) : ∀ {s t : State}, t.env = s.env → ActsAlike (timerTests j) s t := by
  induction j with
  | zero =>
    intro s t same
    exact ⟨s.env, [.texp true], some .handshakeTimeout, rfl, by simp [timerTests, State.emit, ← same]⟩
  | succ j ih =>
    intro s t same
    have polled := poll_alike (k := timerTests j) (s := { s with env := s.env, trace := s.trace ++ [.texp false] })
      (t := { t with env := s.env, trace := t.trace ++ [.texp false] }) rfl fun _ _ => ih rfl
    obtain ⟨env, l, r, fromS, fromT⟩ := polled.behind
    rw [← same] at fromT
    exact ⟨env, l, r, fromS, fromT⟩

/-- Two waits with the same environment and the same arguments: they start their timers at the same value, use the same
answers, make the same events and end alike. -/
theorem waitReady_alike (same : t.env = s.env) (args : t.args = s.args) : ∃ timer env l r,
    waitReady s = ({ s with timer := timer, env := env, trace := s.trace ++ l }, r)
    ∧ waitReady t = ({ t with timer := timer, env := env, trace := t.trace ++ l }, r) := by
  have tested (env : Env) (l : List Event) : ActsAlike (fun s => timerTests s.takePolls.1 s.takePolls.2)
      { s.startTimer with env := env, trace := s.startTimer.trace ++ l }
      { t.startTimer with env := env, trace := t.startTimer.trace ++ l } := by
    have drawn := State.takePolls_alike (s := { s.startTimer with env := env, trace := s.startTimer.trace ++ l })
      (t := { t.startTimer with env := env, trace := t.startTimer.trace ++ l }) rfl (by simp [State.startTimer, same])
      args
    have drawn' := State.takePolls_alike (s := { s.startTimer with env := env, trace := s.startTimer.trace ++ l })
      (t := { s.startTimer with env := env, trace := s.startTimer.trace ++ l }) rfl rfl rfl
    unfold ActsAlike
    dsimp only at drawn drawn' ⊢
    rw [drawn, drawn']
    exact timerTests_alike _ rfl
  obtain ⟨env, l, r, fromS, fromT⟩ := poll_alike (by simp [State.startTimer, same]) tested
  refine ⟨Config.timerNow s.env.timers, env, .tstart :: l, r, fromS.trans ?_, fromT.trans ?_⟩
  · simp [State.startTimer]
  · simp [State.startTimer, same]

/-- Two sends of the same frame with the same environment. -/
theorem sendBytes_alike (f : List Byte) : ∀ {s t : State}, t.env = s.env → ∃ env l,
    sendBytes f s = { s with env := env, txIdx := s.txIdx + f.length, trace := s.trace ++ l }
    ∧ sendBytes f t = { t with env := env, txIdx := t.txIdx + f.length, trace := t.trace ++ l } := by
  have sent {s t : State} (same : t.env = s.env) (b : Byte) : t.txByte b
      = { t with env := (s.txByte b).env, trace := t.trace ++ [.x b s.takeTx.1] } := by
    cases queued : s.env.tx <;> simp [State.txByte, State.takeTx, same, queued, State.emit, State.tickOn]
  induction f with
  | nil => exact fun {s t} same => ⟨s.env, [], by simp [sendBytes], by simp [sendBytes, ← same]⟩
  | cons b bs ih =>
    intro s t same
    obtain ⟨env, l, fromS, fromT⟩ := ih
      (s := { s with env := (s.txByte b).env, txIdx := s.txIdx + 1, trace := s.trace ++ [.x b s.takeTx.1] })
      (t := { t with env := (s.txByte b).env, txIdx := t.txIdx + 1, trace := t.trace ++ [.x b s.takeTx.1] }) rfl
    refine ⟨env, .x b s.takeTx.1 :: l, ?_, ?_⟩
    · rw [sendBytes, sent (s := s) (t := s) rfl]
      refine fromS.trans ?_
      simp
      omega
    · rw [sendBytes, sent same]
      refine fromT.trans ?_
      simp
      omega

end Sys2Proof.Machine

/-! ### What a decode does not look at (10_state.md R30-R36, 41_frame_codec.md R136) -/

namespace Sys2Proof.Machine

/-- The registers that a decode does not look at, or not before it has written them. -/
structure Aside where
  fsm : Fsm
  obs : List Obs
  tx : List Byte
  txIdx : Nat
  probe : Nat
  n : Byte
  timer : Nat
  rs : Fin 8

/-- The state with these values in them, and all else as it is. -/
def State.withAside (s : State) (p : Aside) : State :=
  { s with
    fsm := p.fsm, obs := p.obs, tx := p.tx, txIdx := p.txIdx, probe := p.probe, n := p.n, timer := p.timer, rs := p.rs }

/-- From `s` to `t`, and with `p` in their place from `p` to `q`: a decode writes the probe counter and the count alike,
or leaves them as they are, and leaves the rest. -/
structure Carried (s : State) (p : Aside) (t : State) (q : Aside) : Prop where
  fsm : q.fsm = p.fsm ∧ t.fsm = s.fsm
  obs : q.obs = p.obs ∧ t.obs = s.obs
  tx : q.tx = p.tx ∧ t.tx = s.tx
  txIdx : q.txIdx = p.txIdx ∧ t.txIdx = s.txIdx
  timer : q.timer = p.timer ∧ t.timer = s.timer
  rs : q.rs = p.rs ∧ t.rs = s.rs
  probe : q.probe = t.probe ∨ t.probe = s.probe ∧ q.probe = p.probe
  n : q.n = t.n ∨ t.n = s.n ∧ q.n = p.n

theorem Carried.refl (s : State) (p : Aside) : Carried s p s p :=
  ⟨⟨rfl, rfl⟩, ⟨rfl, rfl⟩, ⟨rfl, rfl⟩, ⟨rfl, rfl⟩, ⟨rfl, rfl⟩, ⟨rfl, rfl⟩, .inr ⟨rfl, rfl⟩, .inr ⟨rfl, rfl⟩⟩

/-- A register that is written alike or by neither, twice. -/
theorem alike_or_unwritten_trans {α : Type} {a b c a' b' c' : α} (h : b' = b ∨ b = a ∧ b' = a')
    (k : c' = c ∨ c = b ∧ c' = b') : c' = c ∨ c = a ∧ c' = a' := by
  obtain written | ⟨same, same'⟩ := k
  · exact .inl written
  · subst same same'
    exact h

theorem Carried.trans {s t u : State} {p q r : Aside} (h : Carried s p t q) (k : Carried t q u r) : Carried s p u r where
  fsm := ⟨k.fsm.1.trans h.fsm.1, k.fsm.2.trans h.fsm.2⟩
  obs := ⟨k.obs.1.trans h.obs.1, k.obs.2.trans h.obs.2⟩
  tx := ⟨k.tx.1.trans h.tx.1, k.tx.2.trans h.tx.2⟩
  txIdx := ⟨k.txIdx.1.trans h.txIdx.1, k.txIdx.2.trans h.txIdx.2⟩
  timer := ⟨k.timer.1.trans h.timer.1, k.timer.2.trans h.timer.2⟩
  rs := ⟨k.rs.1.trans h.rs.1, k.rs.2.trans h.rs.2⟩
  probe := alike_or_unwritten_trans h.probe k.probe
  n := alike_or_unwritten_trans h.n k.n

/-- What `F` does to a state is carried over to the state with other values aside. -/
def Carries (F : State → Ended) : Prop :=
  ∀ s p, ∃ q, F (s.withAside p) = ((F s).1.withAside q, (F s).2) ∧ Carried s p (F s).1 q

theorem Carries.andThen {F G : State → Ended} (head : Carries F) (body : Carries G) :
    Carries (fun s => (F s).andThen G) := by
  intro s p
  obtain ⟨q, moved, carried⟩ := head s p
  cases ended : (F s).2 with
  | some e => exact ⟨q, by simp [Ended.andThen, moved, ended], by simpa [Ended.andThen, ended] using carried⟩
  | none =>
    obtain ⟨r, moved', carried'⟩ := body (F s).1 q
    exact ⟨r, by simp [Ended.andThen, moved, ended, moved'], by simpa [Ended.andThen, ended] using carried.trans carried'⟩

theorem State.rxByte_withAside (s : State) (p : Aside) :
    (s.withAside p).rxByte = (s.rxByte.1, s.rxByte.2.withAside p) := by
  cases queued : s.env.rx <;>
    simp [State.rxByte, State.takeRx, State.withAside, queued, State.emit, State.tickOn]

theorem State.sampleAbort_withAside (s : State) (p : Aside) :
    (s.withAside p).sampleAbort = (s.sampleAbort.1, s.sampleAbort.2.withAside p) := by
  cases queued : s.env.abort <;>
    simp [State.sampleAbort, State.takeAbort, State.withAside, queued, State.emit, State.tickOn]

theorem readBytes_withAside (k : Nat) (p : Aside) : ∀ s : State,
    readBytes k (s.withAside p) = ((readBytes k s).1, (readBytes k s).2.withAside p) := by
  induction k with
  | zero => exact fun s => rfl
  | succ k ih => exact fun s => by simp only [readBytes, State.rxByte_withAside, ih]

theorem drain_withAside (k : Nat) (p : Aside) (s : State) : drain k (s.withAside p) = (drain k s).withAside p := by
  rw [drain_eq_readBytes, drain_eq_readBytes, readBytes_withAside]

theorem padRx_withAside (s : State) (p : Aside) : padRx (s.withAside p) = (padRx s).withAside p := by
  unfold padRx
  split
  · rename_i pads
    rw [if_pos (by exact pads)]
    exact drain_withAside _ p s
  · rename_i pads
    rw [if_neg (by exact pads)]

/-- What stays of the registers aside while bytes are received. -/
theorem Carried.of_eq {s t : State} (p : Aside) (fsm : t.fsm = s.fsm) (obs : t.obs = s.obs) (tx : t.tx = s.tx)
    (txIdx : t.txIdx = s.txIdx) (timer : t.timer = s.timer) (rs : t.rs = s.rs) (probe : t.probe = s.probe)
    (n : t.n = s.n) : Carried s p t p :=
  ⟨⟨rfl, fsm⟩, ⟨rfl, obs⟩, ⟨rfl, tx⟩, ⟨rfl, txIdx⟩, ⟨rfl, timer⟩, ⟨rfl, rs⟩, .inr ⟨probe, rfl⟩, .inr ⟨n, rfl⟩⟩

end Sys2Proof.Machine

/-! ### Every step of a decode leaves the registers aside out of account (41_frame_codec.md R136-R149) -/

namespace Sys2Proof.Machine

/-- The values aside of a state. -/
def State.aside (s : State) : Aside := ⟨s.fsm, s.obs, s.tx, s.txIdx, s.probe, s.n, s.timer, s.rs⟩

theorem State.withAside_aside (s : State) : s.withAside s.aside = s := rfl

/-- What writes neither the probe counter nor the count. -/
theorem Carries.of_plain {F : State → Ended}
    (plain : ∀ s p, F (s.withAside p) = ((F s).1.withAside p, (F s).2)) : Carries F := by
  intro s p
  have self : (F s).1 = (F s).1.withAside s.aside := congrArg Prod.fst (plain s s.aside)
  refine ⟨p, plain s p, .of_eq p ?_ ?_ ?_ ?_ ?_ ?_ ?_ ?_⟩ <;> rw [self] <;> rfl

/-- What writes the count, and looks at it no more than at the others. -/
theorem Carries.of_counted {F : State → Ended}
    (counted : ∀ s p, F (s.withAside p) = ((F s).1.withAside { p with n := (F s).1.n }, (F s).2)) : Carries F := by
  intro s p
  have self : (F s).1 = (F s).1.withAside { s.aside with n := (F s).1.n } := congrArg Prod.fst (counted s s.aside)
  refine ⟨_, counted s p, ⟨rfl, ?_⟩, ⟨rfl, ?_⟩, ⟨rfl, ?_⟩, ⟨rfl, ?_⟩, ⟨rfl, ?_⟩, ⟨rfl, ?_⟩, .inr ⟨?_, rfl⟩, .inl rfl⟩ <;>
    rw [self] <;> rfl

theorem State.latch_withAside (s : State) (e : ErrorKind) (p : Aside) :
    (s.withAside p).latch e = (s.latch e).withAside p := by
  cases err : s.err <;> simp [State.latch, State.withAside, err]

theorem State.store_withAside (s : State) (i : Nat) (x : List Byte) (p : Aside) :
    (s.withAside p).store i x = (s.store i x).withAside p := by
  cases err : s.err <;> simp [State.store, State.withAside, err]

theorem latchShape_withAside (cap : Nat) (exact : Option Nat) (len : Nat) (s : State) (p : Aside) :
    latchShape cap exact len (s.withAside p) = (latchShape cap exact len s).withAside p := by
  unfold latchShape
  split
  · exact s.latch_withAside _ p
  · cases exact with
    | none => rfl
    | some w =>
      dsimp only
      split
      · exact s.latch_withAside _ p
      · rfl

theorem readValue_withAside (cap : Nat) (exact : Option Nat) (s : State) (p : Aside) :
    readValue cap exact (s.withAside p) = (readValue cap exact s).withAside p := by
  unfold readValue
  simp only [State.rxByte_withAside, latchShape_withAside, readBytes_withAside]
  generalize (readBytes _ _).2 = t
  cases err : t.err with
  | none =>
    rw [show (t.withAside p).err = none from err]
    dsimp only
    rw [State.store_withAside]
    rfl
  | some e => rw [show (t.withAside p).err = some e from err]

theorem finishFrame_withAside (s : State) (p : Aside) :
    finishFrame (s.withAside p) = ((finishFrame s).1.withAside p, (finishFrame s).2) := by
  simp only [finishFrame, State.rxByte_withAside, padRx_withAside]
  generalize padRx _ = t
  cases err : t.err with
  | none =>
    rw [show (t.withAside p).err = none from err]
    dsimp only
    split <;> rfl
  | some e => rw [show (t.withAside p).err = some e from err]

theorem echoCheck_withAside (op : Byte) (s : State) (p : Aside) :
    echoCheck op (s.withAside p) = ((echoCheck op s).1.withAside p, (echoCheck op s).2) := by
  have marked : { s.rxByte.2.withAside p with marker := false }
      = ({ s.rxByte.2 with marker := false } : State).withAside p := rfl
  simp only [echoCheck, State.rxByte_withAside, marked, drain_withAside, padRx_withAside]
  rw [show (s.withAside p).cfg = s.cfg from rfl]
  split
  · rfl
  · split <;> rfl

/-- The hunt counts its probes from where the counter stands, and looks at nothing else aside. -/
theorem hunt_withAside (k : Nat) : ∀ (s : State) (p : Aside), p.probe = s.probe →
    hunt k (s.withAside p) = ((hunt k s).1.withAside { p with probe := (hunt k s).1.probe }, (hunt k s).2) := by
  have sampled (s : State) {p : Aside} (same : p.probe = s.probe) :
      s.sampleAbort.2.withAside p = s.sampleAbort.2.withAside { p with probe := s.sampleAbort.2.probe } := by
    rw [s.sampleAbort_frame, ← same]
  induction k with
  | zero =>
    intro s p same
    simp only [hunt, State.sampleAbort_withAside]
    split <;> rw [← sampled s same]
  | succ k ih =>
    intro s p same
    simp only [hunt, State.sampleAbort_withAside, State.rxByte_withAside]
    rw [show (s.withAside p).probe = s.probe from same]
    split
    · rw [← sampled s same]
    · split
      · rfl
      · exact ih { s.sampleAbort.2.rxByte.2 with probe := s.probe + 1 } { p with probe := s.probe + 1 } rfl

/-- The counters are cleared before the hunt; behind a marker that has been read there is none. -/
theorem findMarker_carries : Carries findMarker := by
  intro s p
  cases marker : s.marker with
  | true =>
    have found (t : State) (marked : t.marker = true) : findMarker t = (t, none) := by simp [findMarker, marked]
    rw [found s marker, found _ (by exact marker)]
    exact ⟨p, rfl, .refl s p⟩
  | false =>
    have hunted (t : State) (unmarked : t.marker = false) :
        findMarker t = hunt t.cfg.probeLimit { t with probe := 0, m := 0 } := by simp [findMarker, unmarked]
    have carried (p : Aside) : findMarker (s.withAside p)
        = ((findMarker s).1.withAside { p with probe := (findMarker s).1.probe }, (findMarker s).2) := by
      rw [hunted s marker, hunted _ (by exact marker)]
      exact hunt_withAside _ { s with probe := 0, m := 0 } { p with probe := 0 } rfl
    have self := congrArg Prod.fst (carried s.aside)
    rw [s.withAside_aside] at self
    refine ⟨_, carried p, ⟨rfl, ?_⟩, ⟨rfl, ?_⟩, ⟨rfl, ?_⟩, ⟨rfl, ?_⟩, ⟨rfl, ?_⟩, ⟨rfl, ?_⟩, .inl rfl, .inr ⟨?_, rfl⟩⟩ <;>
      rw [self] <;> rfl

theorem singleBody_carries (cap : Nat) (exact : Option Nat) : Carries (singleBody cap exact) := by
  have plain (t : State) (p : Aside) : finishFrame (readValue cap exact (t.withAside p))
      = ((finishFrame (readValue cap exact t)).1.withAside p, (finishFrame (readValue cap exact t)).2) := by
    rw [readValue_withAside, finishFrame_withAside]
  have count (t : State) : (finishFrame (readValue cap exact t)).1.n = t.n := congrArg (·.1.n) (plain t t.aside)
  refine .of_counted fun s p => ?_
  simp only [singleBody, State.rxByte_withAside]
  split
  · rw [count]
    exact plain { s.rxByte.2 with n := s.rxByte.1 } { p with n := s.rxByte.1 }
  · rfl

/-- A field looks at nothing aside. -/
theorem readFields_withAside (k : Nat) (p : Aside) : ∀ s : State,
    readFields k (s.withAside p) = ((readFields k s).1, (readFields k s).2.withAside p) := by
  induction k with
  | zero => exact fun s => rfl
  | succ k ih => exact fun s => by simp only [readFields, readField, State.rxByte_withAside, readBytes_withAside, ih]

theorem listBody_carries (maxParams recCap : Nat) : Carries (listBody maxParams recCap) := by
  refine .of_counted fun s p => ?_
  have fields : (s.withAside p).listFields = (s.listFields.1, s.listFields.2.withAside p) := by
    simp only [State.listFields, State.rxByte_withAside, readFields_withAside]
  rw [listBody_eq_listFields, listBody_eq_listFields]
  simp only [fields, State.rxByte_withAside, padRx_withAside]
  rfl

theorem decodeReply_carries (op : Byte) (mode : DecodeMode) : Carries (decodeReply op mode) := by
  have head : Carries fun s => (findMarker s).andThen (echoCheck op) :=
    findMarker_carries.andThen (.of_plain (echoCheck_withAside op))
  cases mode with
  | single cap exact => exact head.andThen (singleBody_carries cap exact)
  | list maxParams recCap =>
    have clears : Carries fun s => (if s.marker then s else { s with truncated := false }, none) := by
      refine .of_plain fun s p => ?_
      cases marker : s.marker <;> simp [State.withAside, marker]
    exact (clears.andThen head).andThen (listBody_carries maxParams recCap)

theorem decodeCall_carries : Carries decodeCall := by
  intro s p
  cases asks : opByte s.op with
  | none =>
    have stops (t : State) (asks : opByte t.op = none) : decodeCall t = (t, some .unexpectedCommandEcho) := by
      simp [decodeCall, asks]
    rw [stops s asks, stops _ (by exact asks)]
    exact ⟨p, rfl, .refl s p⟩
  | some b =>
    have decodes (t : State) (asks : opByte t.op = some b) :
        decodeCall t = decodeReply b (decodeMode t.cfg b t.args) t := by
      simp [decodeCall, asks]
    rw [decodes s asks, decodes _ (by exact asks)]
    exact decodeReply_carries b _ s p

end Sys2Proof.Machine

/-! ### Two runs that begin with other values in the scratch registers (10_state.md R44) -/

namespace Sys2Proof.Machine

/-- The registers that no rule looks at before it has written them in the same call. -/
structure Scratch where
  tx : List Byte
  txIdx : Nat
  probe : Nat
  n : Byte
  timer : Nat
  rs : Fin 8
  rxCount : Nat

/-- Those registers of a state. -/
def State.scratch (s : State) : Scratch := ⟨s.tx, s.txIdx, s.probe, s.n, s.timer, s.rs, s.rxCount⟩

/-- The state with these values in them, and all else as it is. -/
def State.withScratch (s : State) (c : Scratch) : State :=
  { s with
    tx := c.tx, txIdx := c.txIdx, probe := c.probe, n := c.n, timer := c.timer, rs := c.rs, rxCount := c.rxCount }

theorem State.takeBus_withScratch (s : State) (c : Scratch) :
    (s.withScratch c).takeBus = (s.takeBus.1, s.takeBus.2.withScratch c) := by
  cases queued : s.env.bus <;> simp [State.takeBus, State.withScratch, queued, State.tickOn]

theorem settle_withScratch (next : Fsm) (s : State) (r : Option ErrorKind) (c : Scratch) :
    settle next (s.withScratch c, r) = (settle next (s, r)).withScratch c := by
  cases r with
  | none => rfl
  | some e => simp only [settle, State.takeError_frame]; rfl

end Sys2Proof.Machine

namespace Sys2Proof.Safety

open Sys2Proof.Machine

variable {s t u v : State}

theorem SameButUnwritten.eq_withScratch (h : SameButUnwritten s t u v) : v = u.withScratch v.scratch :=
  (congrArg (State.withScratch · v.scratch) h.others :)

theorem SameButUnwritten.trans {x y : State} (h : SameButUnwritten s t x y) (k : SameButUnwritten x y u v) :
    SameButUnwritten s t u v where
  others := k.others
  tx := by
    obtain written | ⟨tx, tx', txIdx, txIdx'⟩ := k.tx
    · exact .inl written
    · rw [tx, tx', txIdx, txIdx']
      exact h.tx
  probe := alike_or_unwritten_trans h.probe k.probe
  n := alike_or_unwritten_trans h.n k.n
  timer := alike_or_unwritten_trans h.timer k.timer
  rs := alike_or_unwritten_trans h.rs k.rs
  rxCount := alike_or_unwritten_trans h.rxCount k.rxCount

/-- Where nothing is written, nothing is told apart. -/
theorem SameButUnwritten.of_scratch (same : u.scratch = s.scratch) :
    SameButUnwritten s t u (u.withScratch t.scratch) :=
  ⟨rfl, .inr ⟨congrArg Scratch.tx same, rfl, congrArg Scratch.txIdx same, rfl⟩, .inr ⟨congrArg Scratch.probe same, rfl⟩,
    .inr ⟨congrArg Scratch.n same, rfl⟩, .inr ⟨congrArg Scratch.timer same, rfl⟩, .inr ⟨congrArg Scratch.rs same, rfl⟩,
    .inr ⟨congrArg Scratch.rxCount same, rfl⟩⟩

/-- A step that looks at none of these registers writes none of them. -/
theorem SameButUnwritten.of_plain {G : State → State} (plain : ∀ c, G (s.withScratch c) = (G s).withScratch c)
    (c : Scratch) : SameButUnwritten s (s.withScratch c) (G s) (G (s.withScratch c)) := by
  have kept : (G s).scratch = s.scratch := (congrArg State.scratch (plain s.scratch) :)
  rw [plain c]
  exact .of_scratch (t := s.withScratch c) kept

/-- What goes before the end of a rule may write some of these registers alike. -/
theorem SameButUnwritten.settle (next : Fsm) (r : Option ErrorKind) (h : SameButUnwritten s t u v) :
    SameButUnwritten s t (settle next (u, r)) (settle next (v, r)) := by
  have ends := SameButUnwritten.of_plain (G := fun w => Machine.settle next (w, r)) (s := u)
    (fun c => settle_withScratch next u r c) v.scratch
  rw [← h.eq_withScratch] at ends
  exact h.trans ends

end Sys2Proof.Safety

namespace Sys2Proof.Machine

open Sys2Proof.Safety

/-- A ready wait starts its timer, and looks at none of these registers. -/
theorem waitReady_sameButUnwritten (next : Fsm) (s : State) (c : Scratch) : SameButUnwritten s (s.withScratch c)
    (settle next (waitReady s)) (settle next (waitReady (s.withScratch c))) := by
  obtain ⟨timer, env, l, r, waited, waited'⟩ := waitReady_alike (s := s) (t := s.withScratch c) rfl rfl
  rw [waited, waited']
  exact .settle next r ⟨rfl, .inr ⟨rfl, rfl, rfl, rfl⟩, .inr ⟨rfl, rfl⟩, .inr ⟨rfl, rfl⟩, .inl rfl, .inr ⟨rfl, rfl⟩,
    .inr ⟨rfl, rfl⟩⟩

/-- A send writes the frame and its index before it looks at them. -/
theorem actSend_sameButUnwritten (s : State) (c : Scratch) :
    SameButUnwritten s (s.withScratch c) (actSend s) (actSend (s.withScratch c)) := by
  have same : requestFrame (s.withScratch c) = requestFrame s := rfl
  unfold actSend
  rw [same]
  cases requestFrame s with
  | error e => exact .of_plain (G := (·.takeError e)) (fun d => settle_withScratch .idle s (some e) d) c
  | ok f =>
    obtain ⟨env, l, sent, sent'⟩ := sendBytes_alike f (s := { s with tx := f, txIdx := 0 })
      (t := { s.withScratch c with tx := f, txIdx := 0 }) rfl
    dsimp only
    rw [sent, sent']
    exact ⟨rfl, .inl ⟨rfl, rfl⟩, .inr ⟨rfl, rfl⟩, .inr ⟨rfl, rfl⟩, .inr ⟨rfl, rfl⟩, .inr ⟨rfl, rfl⟩, .inr ⟨rfl, rfl⟩⟩

/-- A decode writes the counters it counts with; only the receive count goes into it, as SelectRx has left it. -/
theorem actReceive_sameButUnwritten (s : State) (c : Scratch) (counted : c.rxCount = s.rxCount) :
    SameButUnwritten s (s.withScratch c) (actReceive s) (actReceive (s.withScratch c)) := by
  have aside : s.withScratch c = s.withAside ⟨s.fsm, s.obs, c.tx, c.txIdx, c.probe, c.n, c.timer, c.rs⟩ := by
    simp [State.withScratch, State.withAside, counted]
  obtain ⟨q, decoded, carried⟩ := decodeCall_carries s ⟨s.fsm, s.obs, c.tx, c.txIdx, c.probe, c.n, c.timer, c.rs⟩
  obtain ⟨⟨fsm, fsm'⟩, ⟨obs, obs'⟩, ⟨tx, tx'⟩, ⟨txIdx, txIdx'⟩, ⟨timer, timer'⟩, ⟨rs, rs'⟩, probe, n⟩ := carried
  unfold actReceive
  rw [aside, decoded, ← aside]
  refine .settle .deselectRx _ ⟨?_, .inr ⟨tx', tx, txIdx', txIdx⟩, probe, n, .inr ⟨timer', timer⟩, .inr ⟨rs', rs⟩,
    .inl rfl⟩
  simp [State.withAside, fsm, fsm', obs, obs']

/-- Every rule; the receive count is looked at in ReceiveFrame only. -/
theorem action_sameButUnwritten (s : State) (c : Scratch)
    (counted : s.fsm = .receiveFrame → c.rxCount = s.rxCount) :
    SameButUnwritten s (s.withScratch c) (action s) (action (s.withScratch c)) := by
  have place : (s.withScratch c).fsm = s.fsm := rfl
  unfold action
  rw [place]
  cases fsm : s.fsm with
  | idle => exact .of_plain (G := id) (fun _ => rfl) c
  | acquireBus =>
    refine .of_plain (G := actAcquire) (fun d => ?_) c
    simp only [actAcquire, State.takeBus_withScratch]
    split <;> rfl
  | awaitReadyTx => exact waitReady_sameButUnwritten .selectTx s c
  | selectTx => exact .of_plain (G := actSelectTx) (fun _ => rfl) c
  | sendFrame => exact actSend_sameButUnwritten s c
  | deselectTx => exact .of_plain (G := actDeselectTx) (fun _ => rfl) c
  | awaitReadyRx => exact waitReady_sameButUnwritten .selectRx s c
  | selectRx =>
    exact ⟨rfl, .inr ⟨rfl, rfl, rfl, rfl⟩, .inr ⟨rfl, rfl⟩, .inr ⟨rfl, rfl⟩, .inr ⟨rfl, rfl⟩, .inr ⟨rfl, rfl⟩, .inl rfl⟩
  | receiveFrame => exact actReceive_sameButUnwritten s c (counted fsm)
  | deselectRx => exact .of_plain (G := actDeselectRx) (fun _ => rfl) c
  | releaseBus => exact .of_plain (G := actRelease) (fun _ => rfl) c
  | done => exact .of_plain (G := actDone) (fun _ => rfl) c
  | failed =>
    refine .of_plain (G := State.returnFromError) (fun d => ?_) c
    cases latched : s.err <;> simp [State.returnFromError, State.withScratch, latched, State.enter, State.emit]
  | resetSeq =>
    unfold actResetSeq
    rw [resetSequence_eq, resetSequence_eq]
    exact ⟨rfl, .inr ⟨rfl, rfl, rfl, rfl⟩, .inr ⟨rfl, rfl⟩, .inr ⟨rfl, rfl⟩, .inr ⟨rfl, rfl⟩, .inl rfl, .inr ⟨rfl, rfl⟩⟩

/-- ReceiveFrame is entered from SelectRx, which has cleared the receive count. -/
theorem action_receiveFrame {s : State} (receiving : (action s).fsm = .receiveFrame) : s.fsm = .selectRx := by
  have follows := action_follows s
  rw [receiving] at follows
  cases fsm : s.fsm <;> simp_all [successors]

/-- Two runs take the same rules. -/
theorem run_sameButUnwritten (k : Nat) : ∀ (s : State) (c : Scratch),
    (s.fsm = .receiveFrame → c.rxCount = s.rxCount) →
    SameButUnwritten s (s.withScratch c) (run k s) (run k (s.withScratch c)) := by
  induction k with
  | zero => exact fun s c _ => .of_scratch (t := s.withScratch c) rfl
  | succ k ih =>
    intro s c counted
    by_cases idle : s.fsm = .idle
    · rw [run_idle _ _ idle, run_idle _ _ (by exact idle)]
      exact .of_scratch (t := s.withScratch c) rfl
    · have steps := action_sameButUnwritten s c counted
      have step' := steps.eq_withScratch
      have place : (action (s.withScratch c)).fsm = (action s).fsm := by rw [step']; rfl
      by_cases held : (action s).fsm = .acquireBus
      · rw [run_hold _ _ idle held, run_hold _ _ (by exact idle) (place.trans held)]
        exact steps
      · have counted' (receiving : (action s).fsm = .receiveFrame) :
            (action (s.withScratch c)).scratch.rxCount = (action s).rxCount := by
          have selecting := action_receiveFrame receiving
          rw [action, action, show (s.withScratch c).fsm = .selectRx from selecting, selecting]
          rfl
        have rest := ih (action s) _ counted'
        rw [← step'] at rest
        rw [run_succ _ _ idle held, run_succ _ _ (by exact idle) (fun h => held (place.symm.trans h))]
        exact steps.trans rest

/-- An accept writes none of the scratch registers. -/
theorem accept_scratch (r : Request) (s : State) : (accept r s).scratch = s.scratch := by
  rw [accept_eq]
  split
  · rfl
  · split <;> rfl

/-- A call does not begin in ReceiveFrame. -/
theorem accept_ne_receiveFrame (r : Request) {s : State} (idle : s.fsm = .idle) : (accept r s).fsm ≠ .receiveFrame := by
  have exit : errorExit (s.latched r).fsm = .failed := congrArg errorExit idle
  rw [accept_eq]
  split
  · simp
  · split
    · simp
    · rw [State.takeError, exit]
      simp

/-- Settles O38: the accept writes all that is looked at but for the scratch registers, and the two runs go on side by
side. -/
theorem openRegistersAreNeverObservable : Obligations.OpenRegistersAreNeverObservable := by
  refine ⟨fun r s op args tx txIdx probe n m timer rs slots rxCount idle => ?call,
    fun s tx txIdx probe n timer rs rxCount acquiring => ?held⟩
  case call =>
    intro t
    have accepted : accept r t = (accept r s).withScratch t.scratch := by
      rw [accept_eq, accept_eq]
      split
      · rfl
      · split <;> rfl
    have accepts : SameButUnwritten s t (accept r s) (accept r t) := by
      rw [accepted]
      exact .of_scratch (accept_scratch r s)
    refine accepts.trans ?_
    rw [call, call, accepted]
    exact run_sameButUnwritten callLength _ _ fun receiving => absurd receiving (accept_ne_receiveFrame r idle)
  case held =>
    exact run_sameButUnwritten callLength s ⟨tx, txIdx, probe, n, timer, rs, rxCount⟩
      fun receiving => nomatch acquiring.symm.trans receiving

end Sys2Proof.Machine

/-! ### The engine and the whole-call procedure (43_command_engine.md R181, R210) -/

namespace Sys2Proof.Machine

open Sys2Proof.Safety

/-- The state with this state register and this OBS record, which the procedure does not keep. -/
def State.placed (s : State) (f : Fsm) (o : List Obs) : State := { s with fsm := f, obs := o }

/-- What a phase of a call does to a state, it does wherever the engine stands. -/
def PlaceFree (G : State → Ended) : Prop := ∀ s f o, G (s.placed f o) = ((G s).1.placed f o, (G s).2)

/-- Such a phase leaves the state register and the OBS record alone. -/
theorem PlaceFree.keeps {G : State → Ended} (free : PlaceFree G) (s : State) :
    (G s).1.placed s.fsm s.obs = (G s).1 := (congrArg Prod.fst (free s s.fsm s.obs)).symm

theorem PlaceFree.andThen {F G : State → Ended} (head : PlaceFree F) (body : PlaceFree G) :
    PlaceFree fun s => (F s).andThen G := by
  intro s f o
  cases ended : (F s).2 with
  | some e => simp [Ended.andThen, head s f o, ended]
  | none => simp [Ended.andThen, head s f o, ended, body (F s).1 f o]

theorem waitReady_placeFree : PlaceFree waitReady := by
  intro s f o
  obtain ⟨timer, env, l, r, waited, waited'⟩ := waitReady_alike (s := s) (t := s.placed f o) rfl rfl
  rw [waited, waited']
  rfl

theorem sendBytes_placed (frame : List Byte) (s : State) (f : Fsm) (o : List Obs) :
    sendBytes frame (s.placed f o) = (sendBytes frame s).placed f o := by
  obtain ⟨env, l, sent, sent'⟩ := sendBytes_alike frame (s := s) (t := s.placed f o) rfl
  rw [sent, sent']
  rfl

theorem Carries.placeFree {G : State → Ended} (carries : Carries G) : PlaceFree G := by
  intro s f o
  obtain ⟨q, moved, ⟨fsm, -⟩, ⟨obs, -⟩, ⟨tx, tx'⟩, ⟨txIdx, txIdx'⟩, ⟨timer, timer'⟩, ⟨rs, rs'⟩, probe, n⟩ :=
    carries s { s.aside with fsm := f, obs := o }
  have probe : q.probe = (G s).1.probe := probe.elim id fun ⟨same, same'⟩ => same'.trans same.symm
  have n : q.n = (G s).1.n := n.elim id fun ⟨same, same'⟩ => same'.trans same.symm
  refine moved.trans (Prod.ext ?_ rfl)
  simp [State.withAside, State.placed, fsm, obs, tx.trans tx'.symm, txIdx.trans txIdx'.symm,
    timer.trans timer'.symm, rs.trans rs'.symm, probe, n]

/-- The state in which the procedure sends a frame. -/
def State.loaded (s : State) (frame : List Byte) : State := { select s with tx := frame, txIdx := 0 }

theorem sendPhase_placeFree : PlaceFree sendPhase := by
  intro s f o
  have same : requestFrame (select (s.placed f o)) = requestFrame (select s) := rfl
  unfold sendPhase
  rw [same]
  cases requestFrame (select s) with
  | error e => rfl
  | ok frame => exact congrArg (deselect ·, none) (sendBytes_placed frame (s.loaded frame) f o)

theorem receivePhase_placeFree : PlaceFree receivePhase := by
  intro s f o
  have decoded := decodeCall_carries.placeFree { select s with rxCount := 0 } f o
  unfold receivePhase
  dsimp only at decoded ⊢
  rw [show ({ select (s.placed f o) with rxCount := 0 } : State)
    = State.placed { select s with rxCount := 0 } f o from rfl, decoded]
  rfl

/-- The try parts of the procedure, from the bus acquired on (43_command_engine.md R210). -/
def wirePhases (s : State) : Ended := (((waitReady s).andThen sendPhase).andThen waitReady).andThen receivePhase

theorem wirePhases_placeFree : PlaceFree wirePhases :=
  ((waitReady_placeFree.andThen sendPhase_placeFree).andThen waitReady_placeFree).andThen receivePhase_placeFree

/-- The end of the procedure: the error of a phase is latched, the bus released, the result delivered. -/
def conclude (r : Ended) : State := respond (releaseHeld r.recordError)

theorem conclude_return {s : State} (unlatched : s.err = none) : conclude (s, none) = { s with
    busHeld := false, trace := s.trace ++ [.rel, .resp (.ok (callValue s.op s.slots s.m s.truncated))] } := by
  simp [conclude, Ended.recordError, releaseHeld, respond, State.emit, unlatched]

theorem conclude_error (s : State) (e : ErrorKind) : conclude (s, some e) = { s with
    err := some (s.err.getD e), busHeld := false, trace := s.trace ++ [.rel, .resp (.err (s.err.getD e))] } := by
  cases latched : s.err <;> simp [conclude, Ended.recordError, releaseHeld, respond, State.emit, State.latch, latched]

theorem conclude_placed (r : Ended) (f : Fsm) (o : List Obs) :
    conclude (r.1.placed f o, r.2) = (conclude r).placed f o := by
  obtain ⟨s, e | e⟩ := r
  · cases latched : s.err <;> simp [conclude, Ended.recordError, releaseHeld, respond, State.emit, State.placed, latched]
  · simp only [conclude_error]
    rfl

theorem afterReceive_eq_conclude {t : State} (f : Fsm) (o : List Obs) (unlatched : t.err = none) :
    afterReceive (t.placed f o) = (conclude (deselect { t with marker := false }, none)).placed .idle
      (afterReceive (t.placed f o)).obs := by
  rw [conclude_return (by exact unlatched)]
  simp [afterReceive, State.placed, deselect_eq, deselectEvents]

theorem afterReceiveError_eq_conclude (t : State) (e : ErrorKind) (f : Fsm) (o : List Obs) :
    afterReceiveError (t.placed f o) (t.err.getD e)
      = (conclude (deselect { t with marker := false }, some e)).placed .idle
        (afterReceiveError (t.placed f o) (t.err.getD e)).obs := by
  rw [conclude_error]
  simp [afterReceiveError, State.placed, deselect_eq, deselectEvents]

theorem afterWaitError_eq_conclude {t : State} (e : ErrorKind) (f : Fsm) (o : List Obs) (unlatched : t.err = none) :
    afterWaitError (t.placed f o) e
      = (conclude (t, some e)).placed .idle (afterWaitError (t.placed f o) e).obs := by
  rw [conclude_error, unlatched]
  simp [afterWaitError, State.placed]

/-- From the state `f` of an accepted call with no error the engine does what is left of the procedure, `G`. -/
def Performs (f : Fsm) (G : State → Ended) : Prop :=
  ∀ s o, s.err = none → acceptedCall s → ∃ o', resume (s.placed f o) = (conclude (G s)).placed .idle o'

/-- SelectRx, ReceiveFrame, DeselectRx. -/
theorem performs_receivePhase : Performs .selectRx receivePhase := by
  intro s o unlatched accepted
  have selected : (s.placed .selectRx o).receiving
      = State.placed { select s with rxCount := 0 } .receiveFrame (o ++ [⟨.selectRx, .receiveFrame, s.err⟩]) := rfl
  have decoded := decodeCall_carries.placeFree { select s with rxCount := 0 } .receiveFrame
    (o ++ [⟨.selectRx, .receiveFrame, s.err⟩])
  have judged := decodeCall_judged (s := { select s with rxCount := 0 }) unlatched
  rw [resume_selectRx rfl, selected, receivePhase, Ended.tryFinally]
  dsimp only at decoded judged ⊢
  generalize decodeCall { select s with rxCount := 0 } = r at decoded judged ⊢
  obtain ⟨t, e | e⟩ := r
  · have clear : t.err = none := judged
    rw [resume_receiveFrame_return rfl decoded clear]
    exact ⟨_, afterReceive_eq_conclude _ _ clear⟩
  · rw [resume_receiveFrame_error rfl decoded]
    exact ⟨_, afterReceiveError_eq_conclude t e _ _⟩

/-- A ready wait, and what comes behind it. -/
theorem performs_waitReady {f g : Fsm} {G : State → Ended}
    (place : f = .awaitReadyTx ∧ g = .selectTx ∨ f = .awaitReadyRx ∧ g = .selectRx) (behind : Performs g G) :
    Performs f fun s => (waitReady s).andThen G := by
  intro s o unlatched accepted
  have frame := (waitReady_spec s).1
  have waited := waitReady_placeFree s f o
  have stays : (waitReady s).1.err = none := frame.err.trans unlatched
  have accepted' : acceptedCall (waitReady s).1 :=
    acceptedCall_congr (s := s) frame.emits.keeps.op frame.emits.keeps.args accepted
  dsimp only
  generalize waitReady s = r at waited stays accepted'
  obtain ⟨t, e | e⟩ := r
  · rw [resume_wait_return rfl place waited]
    exact behind t _ stays accepted'
  · rw [resume_wait_error (s := s.placed f o) (place.imp And.left And.left) unlatched waited]
    exact ⟨_, afterWaitError_eq_conclude e f o stays⟩

/-- DeselectTx moves the level and the clock, and no register of the call. -/
theorem deselect_placed (t : State) (f : Fsm) (o : List Obs) :
    (deselect ((t.placed f o).enter .deselectTx)).enter .awaitReadyRx
      = (deselect t).placed .awaitReadyRx (o ++ [⟨f, .deselectTx, t.err⟩, ⟨.deselectTx, .awaitReadyRx, t.err⟩]) := by
  simp [deselect_eq, State.placed, State.enter]

/-- SelectTx, SendFrame, DeselectTx, and what comes behind them. -/
theorem performs_sendPhase {G : State → Ended} (behind : Performs .awaitReadyRx G) :
    Performs .selectTx fun s => (sendPhase s).andThen G := by
  intro s o unlatched accepted
  obtain ⟨-, frame, -, -, asked⟩ := requestFrame_of_acceptedCall accepted
  have begun : State.sending (s.placed .selectTx o) frame
      = (s.loaded frame).placed .sendFrame (o ++ [⟨.selectTx, .sendFrame, s.err⟩]) := rfl
  have sends : sendPhase s = (deselect (sendBytes frame (s.loaded frame)), none) := by
    rw [sendPhase, show requestFrame (select s) = .ok frame from asked]
    rfl
  obtain ⟨env, l, sent, -⟩ := sendBytes_alike frame (s := s.loaded frame) rfl
  have stays : (deselect (sendBytes frame (s.loaded frame))).err = none := by rw [sent]; exact unlatched
  have accepted' : acceptedCall (deselect (sendBytes frame (s.loaded frame))) := by rw [sent]; exact accepted
  dsimp only
  rw [resume_selectTx (f := frame) rfl (by exact asked), begun, sendBytes_placed, sends, deselect_placed]
  exact behind _ _ stays accepted'

theorem Ended.andThen_assoc (r : Ended) (f g : State → Ended) :
    (r.andThen f).andThen g = r.andThen fun s => (f s).andThen g := by
  obtain ⟨s, e | e⟩ := r <;> rfl

theorem performs_wirePhases : Performs .awaitReadyTx wirePhases := by
  have ways := performs_waitReady (.inl ⟨rfl, rfl⟩)
    (performs_sendPhase (performs_waitReady (.inr ⟨rfl, rfl⟩) performs_receivePhase))
  have phases : wirePhases
      = fun s => (waitReady s).andThen fun s => (sendPhase s).andThen fun s => (waitReady s).andThen receivePhase := by
    funext s
    rw [wirePhases, Ended.andThen_assoc, Ended.andThen_assoc]
  rwa [phases]

theorem State.takeBus_placed (s : State) (f : Fsm) (o : List Obs) :
    (s.placed f o).takeBus = (s.takeBus.1, s.takeBus.2.placed f o) := by
  cases queued : s.env.bus <;> simp [State.takeBus, State.placed, queued, State.tickOn]

theorem acquireFree_eq (s : State) : acquireFree s =
    { s with busHeld := true, env := s.takeBus.2.env, trace := s.trace ++ [.acq] } := by
  rw [acquireFree, s.takeBus_frame]
  rfl

theorem acquireFree_enter (s : State) : ∃ o,
    (acquireFree (s.enter .acquireBus)).enter .awaitReadyTx = (acquireFree s).placed .awaitReadyTx o := by
  have entered : s.enter .acquireBus = s.placed .acquireBus (s.enter .acquireBus).obs := rfl
  rw [acquireFree, entered, s.takeBus_placed]
  exact ⟨_, rfl⟩

/-- An accepted call on a bus that is free: the acquire, the phases, the end. -/
theorem call_performs {r : Request} {s : State} {b : Byte} (wire : r.sel = .cmd b)
    (pass : (known b && argsOk s.cfg b r) = true) (free : s.takeBus.1 = false) :
    ∃ o, call r s = (conclude (wirePhases (acquireFree (s.latched r)))).placed .idle o := by
  have accepted : accept r s = (s.latched r).enter .acquireBus := by
    rw [accept_eq, wire]
    exact if_pos pass
  have still : ((s.latched r).enter .acquireBus).takeBus.1 = false := by
    rw [← free]
    cases queued : s.env.bus <;> simp [State.takeBus, State.latched, State.emit, queued]
  obtain ⟨o, acquired⟩ := acquireFree_enter (s.latched r)
  rw [call, accepted, resume_acquire_free rfl still, acquired, acquireFree_eq]
  exact performs_wirePhases _ o rfl (acceptedCall_of_pass wire rfl pass)

theorem callProcedure_eq (r : Request) (s : State) : callProcedure r s =
    match r.sel with
    | .resetSeq => (resetSequence (s.latched r)).emit (.resp (.ok .unit))
    | .cmd b =>
      if known b && argsOk s.cfg b r then conclude (wirePhases (acquireFree (s.latched r)))
      else ((s.latched r).latch .argumentOutOfRange).emit (.resp (.err .argumentOutOfRange)) := rfl

/-- Settles O36: the engine performs the phases of the procedure one after the other, and the procedure, which moves
neither the state register nor the OBS record, ends where the engine does. -/
theorem stateMachineAgreesWithTheCallProcedure : Obligations.StateMachineAgreesWithTheCallProcedure := by
  intro r s idle free
  cases wire : r.sel with
  | resetSeq =>
    have accepted : accept r s = (s.latched r).enter .resetSeq := by rw [accept_eq, wire]
    rw [call, accepted, resume_resetSeq rfl, actResetSeq, callProcedure_eq, wire]
    simp only [resetSequence_eq]
    simp [State.latched, State.emit, State.enter, idle]
  | cmd b =>
    cases pass : known b && argsOk s.cfg b r with
    | true =>
      obtain ⟨o, called⟩ := call_performs wire pass free
      have placed := conclude_placed (wirePhases (acquireFree (s.latched r))) .idle s.obs
      have begun : (acquireFree (s.latched r)).fsm = .idle ∧ (acquireFree (s.latched r)).obs = s.obs := by
        rw [acquireFree_eq]
        exact ⟨idle, rfl⟩
      have kept := wirePhases_placeFree.keeps (acquireFree (s.latched r))
      rw [begun.1, begun.2] at kept
      rw [kept] at placed
      rw [callProcedure_eq, wire, called]
      exact placed.symm.trans (if_pos pass).symm
    | false =>
      rw [call_of_fail idle wire pass, callProcedure_eq, wire]
      simp [pass, State.latch_none, State.latched, State.emit, idle, wire]

end Sys2Proof.Machine
